-- ==== Sys2Proof/Word.lean ====
section
/-! DEFINITION. The word types of the block (00_scope R10) and their plainest arithmetic. -/

namespace Sys2Proof

/-- One byte of an operand list or of a register block. -/
abbrev Byte := BitVec 8

/-- A raw instruction word, `Bits32` of R10. -/
abbrev Word32 := BitVec 32

/-- A register value, an address or a decoded integer, `Bits64` of R10 (`XLEN = 64`, R8). -/
abbrev Word := BitVec 64

/-- `toBits64(n)` of R12: an integer modulo 2^64. -/
def toBits64 (n : Int) : Word := BitVec.ofInt 64 n

/-- `signed(v)` of R10: the two's-complement reading. -/
def signed (v : Word) : Int := v.toInt

end Sys2Proof
end

