-- ==== Sys2Proof/Config.lean ====
section
/-! DEFINITION. What is fixed when the block is built (00_scope R8, R9) and what the spec leaves free.
`Cfg` is plain data: partial maps are association lists, a row's predicate is a Boolean expression over
the word's bits, and a block layout is a list of byte positions or a number that names an uninterpreted
layout. The opaque constants are the free values: none has a body, so nothing can be proved of one. -/

namespace Sys2Proof

/-- The decoded ISA's mnemonics (R8 `Opcode`, OPEN): the five that R98 names, and numbered others. -/
inductive Opcode where
  | ldr | sub | cmp | b | mov
  | isa (n : Nat)
  deriving DecidableEq, Repr, Inhabited

/-- Control-flow kinds (30_encoding R87). -/
inductive Kind where
  | other | call | ret | unconditionalJump
  deriving DecidableEq, Repr, Inhabited

/-- Register classes (R8 `RegClass`, OPEN, containing `gpr`). -/
inductive RegClass where
  | gpr
  | other (n : Nat)
  deriving DecidableEq, Repr, Inhabited

/-- A register slot of a snapshot (10_state R29). -/
inductive RegSel where
  | gpr (i : Nat)
  | special (j : Nat)
  deriving DecidableEq, Repr, Inhabited

/-- The register slots' values (10_state R28, R29): slot `gpr i` is element `i` of `gpr`, slot
`special j` element `j` of `special`. -/
structure RegFile where
  gpr : List Word
  special : List Word
  deriving DecidableEq, Repr, Inhabited

/-- A thread identifier (R8 `ThreadId`, OPEN; equality decidable). -/
structure ThreadId where
  id : Nat
  deriving DecidableEq, Repr, Inhabited

/-- A transport error value (R8 `TransportErr`, OPEN), carried unread. -/
structure TransportErr where
  id : Nat
  deriving DecidableEq, Repr, Inhabited

/-- Order of the four instruction bytes (20_memory R54). -/
inductive ByteOrder where
  | little | big
  deriving DecidableEq, Repr, Inhabited

/-- A row's extra predicate (30_encoding R78), a Boolean function of the word. The language expresses
every such function (`Laws.pred_complete`). -/
inductive Pred where
  | const (v : Bool)
  | bit (i : Nat)
  | not (p : Pred)
  | and (p q : Pred)
  | or (p q : Pred)
  deriving DecidableEq, Repr, Inhabited

/-- Every field a descriptor of any kind may carry (30_encoding R82's table). A kind reads its own. -/
structure DescFields where
  lsb : Nat := 0
  width : Nat := 0
  maxVal : Int := 0
  bias : Int := 0
  shift : Nat := 0
  map : List (Nat × Int) := []
  addLsb : Bool := false
  maxSize : Nat := 0
  cls : RegClass := .gpr
  remap : Option (List (Nat × Nat)) := none
  map1 : List (Nat × Nat) := []
  map2 : List (Nat × Nat) := []
  alignLog2 : Nat := 0
  includeIsa : Bool := false
  flipIsa : Bool := false
  gt : Bool := false
  lt : Bool := false
  eq : Bool := false
  zero : Bool := false
  deriving DecidableEq, Repr, Inhabited

/-- A descriptor as the table stores it: its 4-bit kind tag and its fields (30_encoding R82). -/
structure RawDesc where
  tag : BitVec 4
  fields : DescFields
  deriving DecidableEq, Repr, Inhabited

/-- A row of the decode table (30_encoding R78). -/
structure Row where
  mask : Word32
  value : Word32
  opcode : Opcode
  args : Vector RawDesc 5
  pred : Option Pred
  deriving DecidableEq, Repr, Inhabited

/-- Layout of the general-purpose register block (20_memory R65, OPEN). `positions` gives, for each
slot, the places in the block of its eight bytes, least significant first, and the value of every byte
no slot owns. `uninterpreted n` is any layout at all that can be parsed back, known only through the opaque
constants below. -/
inductive GprLayout where
  | positions (slots : List (RegSel × List Nat)) (pad : Byte)
  | uninterpreted (n : Nat)
  deriving DecidableEq, Repr, Inhabited

/-- Layout of the floating-point block (20_memory R65, OPEN), in the same two forms: register `k` is
read from the bytes at `regs[k]`, least significant first. -/
inductive FpLayout where
  | positions (regs : List (List Nat))
  | uninterpreted (n : Nat)
  deriving DecidableEq, Repr, Inhabited

/-- The configuration record `Cfg` of 00_scope R8. The fixed parameters (`INSN_BYTES`, `WORD_BITS`,
`MAX_SLOTS`, `XLEN`, `TPL_GETG`, `TPL_TINY`, `TPL_SMALL`) are no fields; the decided ones
(`TARGET_SLOT`, `INSN_BYTE_ORDER`, `PCREL_BASE_OFFSET`, `MUTABLE`) keep R8's defaults. -/
structure Cfg where
  isaName : String
  opcodeNames : List String
  table : List Row
  kinds : List (Opcode × Kind)
  targetSlots : List (Opcode × Nat) := []
  byteOrder : ByteOrder := .little
  pcrelBaseOffset : Word := 0
  numGpr : Nat
  numSpecial : Nat
  pcSlot : RegSel
  spSlot : RegSel
  fpSlot : RegSel
  regNames : List (RegSel × String)
  listOrder : List RegSel
  gprBlockBytes : Nat
  gprLayout : GprLayout
  numFpr : Nat
  fpBits : Nat
  fpRawBytes : Nat
  fpLayout : FpLayout
  fpNames : List String
  mutablePc : Bool := true
  mutableSp : Bool := true
  tplBig : Option (List Opcode) := none
  deriving DecidableEq, Repr, Inhabited

/-- Where an address lies in the program text (30_encoding R88 `src`); `fn` is the function's `FnId`. -/
structure SrcInfo where
  file : String
  line : Nat
  fn : Nat
  deriving DecidableEq, Repr, Inhabited

/-- An answer of `TRead` (20_memory R61). -/
inductive ReadAnswer where
  | ok (bytes : List Byte)
  | err (e : TransportErr)
  deriving DecidableEq, Repr, Inhabited

/-- An answer of `TWrite` (20_memory R61). -/
inductive WriteAnswer where
  | ok
  | err (e : TransportErr)
  deriving DecidableEq, Repr, Inhabited

/-- An answer of `TReadFp` (20_memory R61). -/
inductive FpAnswer where
  | ok (bytes : List Byte)
  | notAvailable
  | err (e : TransportErr)
  deriving DecidableEq, Repr, Inhabited

/-- An answer of `Resolve` (20_memory R66). -/
inductive ResolveAnswer where
  | known (src : SrcInfo)
  | unknown
  deriving DecidableEq, Repr, Inhabited

namespace Config

/-- FREE VALUE (log 1): the configuration record offered when the block is built. -/
opaque rawCfg : Cfg

/-- FREE VALUE (log 5): the answer of a `TRead` the oracle lists no answer for; the Nat is `State.draws`. -/
opaque freeRead : Nat → ThreadId → ReadAnswer

/-- FREE VALUE (log 5): the same for `TWrite`. -/
opaque freeWrite : Nat → ThreadId → List Byte → WriteAnswer

/-- FREE VALUE (log 5): the same for `TReadFp`. -/
opaque freeReadFp : Nat → ThreadId → FpAnswer

/-- FREE VALUE (log 5): the same for `Resolve`. -/
opaque freeResolve : Nat → Word → ResolveAnswer

/-- FREE VALUE (log 6): R193's fresh draw for one slot of one live snapshot (its handle, the slot). -/
opaque drawReg : Nat → Nat → RegSel → Word

/-- FREE VALUE (log 6): R152's `draw x in (old, new)` after a failed write; true keeps the new value. -/
opaque drawNew : Nat → Bool

/-- FREE VALUE (log 8): how the uninterpreted layout `n` rearranges a plainly laid out block of `size` bytes
into the block it serialises. A rearrangement of blocks is a bijection, so such a block can be parsed back
(20_memory R65); every layout that can be is one of these (`Laws.openLayout_complete`). -/
opaque openGprOrder (n size : Nat) : Equiv.Perm (Fin size → Byte)

/-- FREE VALUE (log 8): what the uninterpreted layout `n` parses from a block that no register file serialises
to, one slot at a time. -/
opaque openGprParse (n : Nat) : List Byte → RegSel → Word

/-- FREE VALUE (log 8): `FP_PARSE` of the uninterpreted layout `n`, one register at a time. -/
opaque openFpParse : Nat → List Byte → Nat → Nat

end Config

end Sys2Proof
end

