-- ==== Sys2Proof/Syntax.lean ====
section
/-! DEFINITION. The instructions: `Instr` has one constructor per row of spec/opcode_table.json, the
fifteen commands of the port (30_encoding R91) and the nine descriptor tags of the engine (R82). Before
it stand the values they carry. -/

namespace Sys2Proof

/-- A register identifier (30_encoding R85). -/
structure RegId where
  cls : RegClass
  num : Nat
  deriving DecidableEq, Repr, Inhabited

/-- A slot value (30_encoding R84). -/
inductive SlotValue where
  | empty
  | int (v : Word)
  | reg (id : RegId)
  | optReg (id : RegId) (elidable : Bool)
  | pair (id1 id2 : RegId)
  | pcRel (off : Word) (alignLog2 : Nat) (includeIsa flipIsa : Bool)
  deriving DecidableEq, Repr, Inhabited

/-- A decoded instruction (30_encoding R86; equality is R140's). -/
structure Instruction where
  opcode : Opcode
  args : Vector SlotValue 5
  enc : Word32
  size : Nat
  deriving DecidableEq, Repr

/-- The instruction of an operand bundle with nothing in it: opcode `LDR`, empty slots, word 0, size 4. -/
def Instruction.zero : Instruction := ⟨.ldr, #v[.empty, .empty, .empty, .empty, .empty], 0, 4⟩

/-- Fields of an Integer descriptor (40_operands R107). -/
structure IntegerDesc where
  lsb : Nat
  width : Nat
  maxVal : Int
  bias : Int
  shift : Nat
  deriving DecidableEq, Repr, Inhabited

/-- Fields of a MappedInteger descriptor (40_operands R113). -/
structure MappedIntegerDesc where
  lsb : Nat
  width : Nat
  map : List (Nat × Int)
  deriving DecidableEq, Repr, Inhabited

/-- Fields of a MostSignificantBit descriptor (40_operands R114). -/
structure MsbDesc where
  lsb : Nat
  width : Nat
  bias : Int
  addLsb : Bool
  maxSize : Nat
  deriving DecidableEq, Repr, Inhabited

/-- Fields of a Register and of an OptionalRegister descriptor (40_operands R116, R117). -/
structure RegisterDesc where
  lsb : Nat
  width : Nat
  cls : RegClass
  remap : Option (List (Nat × Nat))
  deriving DecidableEq, Repr, Inhabited

/-- Fields of a RegisterPair descriptor (40_operands R118). -/
structure PairDesc where
  lsb : Nat
  width : Nat
  cls : RegClass
  map1 : List (Nat × Nat)
  map2 : List (Nat × Nat)
  deriving DecidableEq, Repr, Inhabited

/-- Fields of a PCRelative descriptor (40_operands R119). -/
structure PcRelDesc where
  lsb : Nat
  width : Nat
  maxVal : Int
  bias : Int
  shift : Nat
  alignLog2 : Nat
  includeIsa : Bool
  flipIsa : Bool
  deriving DecidableEq, Repr, Inhabited

/-- Fields of a CheckAgainstPrevious descriptor (40_operands R122). -/
structure CheckDesc where
  lsb : Nat
  width : Nat
  gt : Bool
  lt : Bool
  eq : Bool
  zero : Bool
  deriving DecidableEq, Repr, Inhabited

/-- The eight descriptor kinds, a closed union (30_encoding R82). -/
inductive Desc where
  | integer (d : IntegerDesc)
  | mappedInteger (d : MappedIntegerDesc)
  | mostSignificantBit (d : MsbDesc)
  | register (d : RegisterDesc)
  | optionalRegister (d : RegisterDesc)
  | registerPair (d : PairDesc)
  | pcRelative (d : PcRelDesc)
  | checkAgainstPrevious (d : CheckDesc)
  deriving DecidableEq, Repr, Inhabited

/-- One entry of a row's argument list: the terminator `none` (tag 0, R80) or a descriptor. -/
inductive ArgEntry where
  | terminator
  | kind (d : Desc)
  deriving DecidableEq, Repr, Inhabited

/-- One constructor per row of the opcode table. A command carries its operand bundle (30_encoding R91);
a descriptor carries its fields and the engine's two other inputs, the word `w` and the accumulator
`prev` (40_operands R106). -/
inductive Instr where
  | decode (bytes : List Byte)
  | classify (inst : Instruction)
  | resolveTarget (inst : Instruction) (addr : Word) (hOpt : Option Nat) (cur : ThreadId)
  | decodeOne (bytes : List Byte) (addr : Word) (hOpt : Option Nat) (cur : ThreadId)
  | matchPrologue (ops : List Opcode)
  | loadSnapshot (tid : ThreadId)
  | asRegisterList (includeFp : Bool) (h : Nat)
  | programCounter (h : Nat)
  | stackPointer (h : Nat)
  | framePointer (h : Nat)
  | get (h : Nat) (idx : Word)
  | copy (h : Nat)
  | setPc (h : Nat) (v : Word)
  | setSp (h : Nat) (v : Word)
  | setDx (h : Nat) (v : Word)
  | descNone (w : Word32) (prev : Option SlotValue)
  | integer (d : IntegerDesc) (w : Word32) (prev : Option SlotValue)
  | mappedInteger (d : MappedIntegerDesc) (w : Word32) (prev : Option SlotValue)
  | mostSignificantBit (d : MsbDesc) (w : Word32) (prev : Option SlotValue)
  | register (d : RegisterDesc) (w : Word32) (prev : Option SlotValue)
  | optionalRegister (d : RegisterDesc) (w : Word32) (prev : Option SlotValue)
  | registerPair (d : PairDesc) (w : Word32) (prev : Option SlotValue)
  | pcRelative (d : PcRelDesc) (w : Word32) (prev : Option SlotValue)
  | checkAgainstPrevious (d : CheckDesc) (w : Word32) (prev : Option SlotValue)
  deriving DecidableEq, Repr

/-- The operand bundle of a request (30_encoding R91, R93), one line per operand name of R91. A command
reads its own lines. -/
structure Operands where
  bytes : List Byte := []
  inst : Instruction := Instruction.zero
  addr : Word := 0
  h : Nat := 0
  hOpt : Option Nat := none
  tid : ThreadId := ⟨0⟩
  cur : ThreadId := ⟨0⟩
  idx : Word := 0
  v : Word := 0
  ops : List Opcode := []
  deriving DecidableEq, Repr

/-- What the block can be given to run: a request at the command port (30_encoding R89), or one
descriptor with the engine's inputs (log 3). -/
inductive Packet where
  | command (header : Word32) (operands : Operands)
  | descriptor (raw : RawDesc) (w : Word32) (prev : Option SlotValue)
  deriving DecidableEq, Repr

end Sys2Proof
end

