-- ==== Sys2Proof/Machine/Bits.lean ====
section
/-! DEFINITION. Bit fields and byte order: extract (00_scope R13), insert (40_operands R105), word assembly
(20_memory R54, R56), and the bytes of a 64-bit value. -/

namespace Sys2Proof.Machine

/-- `extract(w, lsb, width)` of 00_scope R13. -/
def extract (w : Word32) (lsb width : Nat) : Nat :=
  (w.toNat >>> lsb) &&& ((1 <<< width) - 1)

/-- `insert(w, lsb, width, val)` of 40_operands R105: it ORs into the field and clears nothing. -/
def insertField (w : Word32) (lsb width val : Nat) : Word32 :=
  BitVec.ofNat 32 (w.toNat ||| ((val &&& ((1 <<< width) - 1)) <<< lsb))

/-- The word of four bytes under a byte order (20_memory R54). -/
def wordOfBytes (order : ByteOrder) (b0 b1 b2 b3 : Byte) : Word32 :=
  match order with
  | .little =>
      b0.setWidth 32 ||| (b1.setWidth 32 <<< 8) ||| (b2.setWidth 32 <<< 16) ||| (b3.setWidth 32 <<< 24)
  | .big =>
      (b0.setWidth 32 <<< 24) ||| (b1.setWidth 32 <<< 16) ||| (b2.setWidth 32 <<< 8) ||| b3.setWidth 32

/-- The word of an instruction's bytes: none for fewer than four, and every byte after the fourth is
ignored (20_memory R56). -/
def assembleWord (order : ByteOrder) : List Byte → Option Word32
  | b0 :: b1 :: b2 :: b3 :: _ => some (wordOfBytes order b0 b1 b2 b3)
  | _ => none

/-- The number whose bytes, least significant first, are given. -/
def natOfBytes : List Byte → Nat
  | [] => 0
  | b :: rest => b.toNat + 256 * natOfBytes rest

/-- Byte `k` of a 64-bit value, byte 0 the least significant. -/
def byteOfWord (v : Word) (k : Nat) : Byte := BitVec.ofNat 8 (v.toNat / 256 ^ k)

/-- A row predicate's value on a word (30_encoding R78); `bit i` is `w[i]` of 00_scope R10. -/
def evalPred (w : Word32) : Pred → Bool
  | .const v => v
  | .bit i => w.getLsbD i
  | .not p => !(evalPred w p)
  | .and p q => evalPred w p && evalPred w q
  | .or p q => evalPred w p || evalPred w q

end Sys2Proof.Machine
end

