-- ==== Sys2Proof/Machine/Flags.lean ====
section
/-! DEFINITION. The block has no status flags, condition codes or predicate registers (10_state R41). The
only flags the spec names are the flags byte of a request header (30_encoding R90), read here. -/

namespace Sys2Proof.Machine

/-- Bits [7:0] of a header: the command code (R90). -/
def headerCode (header : Word32) : BitVec 8 := header.extractLsb' 0 8

/-- Bits [15:8] of a header: the flags byte (R90). -/
def headerFlags (header : Word32) : BitVec 8 := header.extractLsb' 8 8

/-- Bits [31:16] of a header: reserved, must be zero (R90). -/
def headerReserved (header : Word32) : BitVec 16 := header.extractLsb' 16 16

/-- The flag `includeFP`, bit 8 of a header (R90). -/
def headerIncludeFp (header : Word32) : Bool := header.getLsbD 8

end Sys2Proof.Machine
end

