-- ==== Sys2Proof/WellFormed.lean ====
section
/-! DEFINITION. The named well-formedness checks on a descriptor (30_encoding R83) and on an instruction.
The checks on a whole configuration are in Machine/Build.lean. -/

namespace Sys2Proof

/-- The checks a configuration passes when the block is built (70_reset_and_hazards R200), by name.
WF-TAG to WF-ROW-VALUE are 30_encoding R83's and R79's. -/
inductive BuildCheck where
  /-- WF-TAG: no reserved descriptor tag. -/
  | tag
  /-- WF-FIELD: `lsb + width <= 32`. -/
  | field
  /-- WF-WIDTH0: width 0 only for MappedInteger, Register, OptionalRegister and RegisterPair. DESIGN CHOICE
  (log 18): the kind alone is checked, so a Register or OptionalRegister of width 0 without a remap passes. -/
  | width0
  /-- WF-SHIFT: `shift <= 63`. -/
  | shift
  /-- WF-ALIGN: `alignLog2 <= 63`. -/
  | align
  /-- WF-MAPKEYS: every key below `2^width`. -/
  | mapKeys
  /-- WF-MSB: `1 <= maxSize <= 64`. -/
  | msb
  /-- WF-CHECK: at most one of `gt`, `lt`, `eq`. -/
  | check
  /-- WF-ROW-VALUE: `value & ~mask = 0`. -/
  | rowValue
  /-- 92_eei_decisions D14: the arguments after a row's first `none` are `none` (30_encoding R80). -/
  | afterTerminator
  /-- 00_scope R8: `NUM_SPECIAL` is at least 1. -/
  | numSpecial
  /-- 10_state R31: `PC_SLOT`, `SP_SLOT`, `FP_SLOT` are slots. -/
  | fixedSlot
  /-- 10_state R31: the three are pairwise distinct. -/
  | slotsDistinct
  /-- 70 R200: `LIST_ORDER` lists each slot once. -/
  | listOrder
  /-- 43_classifier R168: a prologue variant that is present is non-empty. -/
  | template
  /-- 20_memory R65: the register block can be parsed back (log 8). -/
  | layout
  deriving DecidableEq, Repr

/-- The first check of a list of (name, holds) pairs that does not hold. -/
def firstFailed : List (BuildCheck × Bool) → Option BuildCheck
  | [] => none
  | (c, ok) :: rest => if ok then firstFailed rest else some c

/-- WF-MAPKEYS for one map. -/
def keysBelow {α : Type} (width : Nat) (m : List (Nat × α)) : Bool :=
  m.all fun kv => kv.1 < 2 ^ width

/-- The checks of 30_encoding R83 that a descriptor kind is subject to, in R83's order. DESIGN CHOICE (log 18):
width 0 is accepted by kind, so also for a Register or OptionalRegister without a remap, which then names
register 0 of its class. -/
def Desc.checks : Desc → List (BuildCheck × Bool)
  | .integer d =>
      [(.field, d.lsb + d.width ≤ 32), (.width0, d.width ≠ 0), (.shift, d.shift ≤ 63)]
  | .mappedInteger d =>
      [(.field, d.lsb + d.width ≤ 32), (.mapKeys, keysBelow d.width d.map)]
  | .mostSignificantBit d =>
      [(.field, d.lsb + d.width ≤ 32), (.width0, d.width ≠ 0),
       (.msb, 1 ≤ d.maxSize && d.maxSize ≤ 64)]
  | .register d =>
      [(.field, d.lsb + d.width ≤ 32), (.mapKeys, d.remap.all (keysBelow d.width))]
  | .optionalRegister d =>
      [(.field, d.lsb + d.width ≤ 32), (.mapKeys, d.remap.all (keysBelow d.width))]
  | .registerPair d =>
      [(.field, d.lsb + d.width ≤ 32), (.mapKeys, keysBelow d.width d.map1 && keysBelow d.width d.map2)]
  | .pcRelative d =>
      [(.field, d.lsb + d.width ≤ 32), (.width0, d.width ≠ 0), (.shift, d.shift ≤ 63),
       (.align, d.alignLog2 ≤ 63)]
  | .checkAgainstPrevious d =>
      [(.field, d.lsb + d.width ≤ 32), (.width0, d.width ≠ 0),
       (.check, !(d.gt && d.lt) && !(d.gt && d.eq) && !(d.lt && d.eq))]

/-- The first check of R83 that the descriptor fails. -/
def Desc.failed (d : Desc) : Option BuildCheck := firstFailed d.checks

/-- The descriptor passes R83. -/
def Desc.wf (d : Desc) : Bool := d.failed.isNone

/-- An Instruction operand is a decoder's product: its size is 4 (30_encoding R86, R93). -/
def Instruction.wf (i : Instruction) : Bool := i.size == 4

/-- An instruction is well formed when its descriptor passes R83, or its Instruction operand is one a
decode can have produced; every other operand bundle is well formed (30_encoding R93). -/
def Instr.wf : Instr → Bool
  | .decode _ => true
  | .classify inst => inst.wf
  | .resolveTarget inst _ _ _ => inst.wf
  | .decodeOne _ _ _ _ => true
  | .matchPrologue _ => true
  | .loadSnapshot _ => true
  | .asRegisterList _ _ => true
  | .programCounter _ => true
  | .stackPointer _ => true
  | .framePointer _ => true
  | .get _ _ => true
  | .copy _ => true
  | .setPc _ _ => true
  | .setSp _ _ => true
  | .setDx _ _ => true
  | .descNone _ _ => true
  | .integer d _ _ => (Desc.integer d).wf
  | .mappedInteger d _ _ => (Desc.mappedInteger d).wf
  | .mostSignificantBit d _ _ => (Desc.mostSignificantBit d).wf
  | .register d _ _ => (Desc.register d).wf
  | .optionalRegister d _ _ => (Desc.optionalRegister d).wf
  | .registerPair d _ _ => (Desc.registerPair d).wf
  | .pcRelative d _ _ => (Desc.pcRelative d).wf
  | .checkAgainstPrevious d _ _ => (Desc.checkAgainstPrevious d).wf

end Sys2Proof
end

