-- ==== Sys2Proof/Decode.lean ====
section
/-! DEFINITION. Reading the block's own encodings: a request header selects a command (30_encoding R92)
and its operand bundle is read (R91); a descriptor's tag selects its kind (R82). Total, rejecting by
name. After it the encoder, from the same tables. -/

namespace Sys2Proof

/-- The fifteen commands of 30_encoding R91. -/
inductive Command where
  | decode | classify | resolveTarget | decodeOne | matchPrologue
  | loadSnapshot | asRegisterList | programCounter | stackPointer | framePointer
  | get | copy | setPc | setSp | setDx
  deriving DecidableEq, Repr

/-- A command's code (30_encoding R91). -/
def Command.code : Command → BitVec 8
  | .decode => 0x01
  | .classify => 0x02
  | .resolveTarget => 0x03
  | .decodeOne => 0x04
  | .matchPrologue => 0x05
  | .loadSnapshot => 0x10
  | .asRegisterList => 0x11
  | .programCounter => 0x12
  | .stackPointer => 0x13
  | .framePointer => 0x14
  | .get => 0x15
  | .copy => 0x16
  | .setPc => 0x17
  | .setSp => 0x18
  | .setDx => 0x19

/-- `match(c)` of 30_encoding R92, as opcode_table.json has it. -/
def Command.matchBits (c : Command) : Word32 := c.code.setWidth 32

/-- `mask(c)` of 30_encoding R92: only AS_REGISTER_LIST leaves bit 8 free. -/
def Command.maskBits : Command → Word32
  | .asRegisterList => 0xFFFFFEFF
  | _ => 0xFFFFFFFF

/-- Every command. -/
def allCommands : List Command :=
  [.decode, .classify, .resolveTarget, .decodeOne, .matchPrologue, .loadSnapshot, .asRegisterList,
   .programCounter, .stackPointer, .framePointer, .get, .copy, .setPc, .setSp, .setDx]

/-- R92: `header & mask(c) = match(c)`. -/
def Command.selectedBy (c : Command) (header : Word32) : Bool :=
  header &&& c.maskBits == c.matchBits

/-- The command a header selects; none for every other header (30_encoding R92, R95). -/
def selectCommand (header : Word32) : Option Command :=
  allCommands.find? fun c => c.selectedBy header

/-- A command with its lines of the operand bundle (30_encoding R91); `includeFp` is header bit 8. -/
def Command.withOperands (c : Command) (includeFp : Bool) (o : Operands) : Instr :=
  match c with
  | .decode => .decode o.bytes
  | .classify => .classify o.inst
  | .resolveTarget => .resolveTarget o.inst o.addr o.hOpt o.cur
  | .decodeOne => .decodeOne o.bytes o.addr o.hOpt o.cur
  | .matchPrologue => .matchPrologue o.ops
  | .loadSnapshot => .loadSnapshot o.tid
  | .asRegisterList => .asRegisterList includeFp o.h
  | .programCounter => .programCounter o.h
  | .stackPointer => .stackPointer o.h
  | .framePointer => .framePointer o.h
  | .get => .get o.h o.idx
  | .copy => .copy o.h
  | .setPc => .setPc o.h o.v
  | .setSp => .setSp o.h o.v
  | .setDx => .setDx o.h o.v

/-- An argument entry as the table stores it (30_encoding R82): none for the reserved tags 9 to 15. -/
def decodeEntry (raw : RawDesc) : Option ArgEntry :=
  let f := raw.fields
  match raw.tag.toNat with
  | 0 => some .terminator
  | 1 => some (.kind (.integer ⟨f.lsb, f.width, f.maxVal, f.bias, f.shift⟩))
  | 2 => some (.kind (.mappedInteger ⟨f.lsb, f.width, f.map⟩))
  | 3 => some (.kind (.mostSignificantBit ⟨f.lsb, f.width, f.bias, f.addLsb, f.maxSize⟩))
  | 4 => some (.kind (.register ⟨f.lsb, f.width, f.cls, f.remap⟩))
  | 5 => some (.kind (.optionalRegister ⟨f.lsb, f.width, f.cls, f.remap⟩))
  | 6 => some (.kind (.registerPair ⟨f.lsb, f.width, f.cls, f.map1, f.map2⟩))
  | 7 => some (.kind (.pcRelative
      ⟨f.lsb, f.width, f.maxVal, f.bias, f.shift, f.alignLog2, f.includeIsa, f.flipIsa⟩))
  | 8 => some (.kind (.checkAgainstPrevious ⟨f.lsb, f.width, f.gt, f.lt, f.eq, f.zero⟩))
  | _ => none

/-- The instruction that runs one argument entry on the engine's inputs. -/
def entryInstr (e : ArgEntry) (w : Word32) (prev : Option SlotValue) : Instr :=
  match e with
  | .terminator => .descNone w prev
  | .kind (.integer d) => .integer d w prev
  | .kind (.mappedInteger d) => .mappedInteger d w prev
  | .kind (.mostSignificantBit d) => .mostSignificantBit d w prev
  | .kind (.register d) => .register d w prev
  | .kind (.optionalRegister d) => .optionalRegister d w prev
  | .kind (.registerPair d) => .registerPair d w prev
  | .kind (.pcRelative d) => .pcRelative d w prev
  | .kind (.checkAgainstPrevious d) => .checkAgainstPrevious d w prev

/-- Why a packet is no instruction. -/
inductive DecodeError where
  /-- The header selects no command (30_encoding R95). -/
  | unknownCommand
  /-- A descriptor tag 9 to 15 (30_encoding R82). -/
  | reservedTag (tag : BitVec 4)
  deriving DecidableEq, Repr

/-- The instruction a packet stands for. -/
def decodePacket : Packet → Except DecodeError Instr
  | .command header o =>
      match selectCommand header with
      | some c => .ok (c.withOperands (Machine.headerIncludeFp header) o)
      | none => .error .unknownCommand
  | .descriptor raw w prev =>
      match decodeEntry raw with
      | some e => .ok (entryInstr e w prev)
      | none => .error (.reservedTag raw.tag)

/-- The packet of a table row's bits with every operand zero: a row of at most 8 bits is a descriptor
tag (format DESC, bits [3:0]), a longer one a request header (format CMD). -/
def tablePacket (nbits w : Nat) : Packet :=
  if nbits ≤ 8 then .descriptor ⟨BitVec.ofNat 4 w, {}⟩ 0 none
  else .command (BitVec.ofNat 32 w) {}

/-- The instruction the decoder reads from a table row's bits, every operand zero. -/
def decodeTableWord (nbits w : Nat) : Option Instr :=
  match decodePacket (tablePacket nbits w) with
  | .ok i => some i
  | .error _ => none

/-- The header of a command: its code, no flag but `includeFP` of AS_REGISTER_LIST (30_encoding R90). -/
def encodeHeader (c : Command) (includeFp : Bool) : Word32 :=
  c.matchBits ||| (if includeFp then 0x100 else 0)

/-- A descriptor as the table stores it: the inverse of `decodeEntry` (30_encoding R82). -/
def encodeEntry : ArgEntry → RawDesc
  | .terminator => ⟨0, {}⟩
  | .kind (.integer d) =>
      ⟨1, { lsb := d.lsb, width := d.width, maxVal := d.maxVal, bias := d.bias, shift := d.shift }⟩
  | .kind (.mappedInteger d) => ⟨2, { lsb := d.lsb, width := d.width, map := d.map }⟩
  | .kind (.mostSignificantBit d) =>
      ⟨3, { lsb := d.lsb, width := d.width, bias := d.bias, addLsb := d.addLsb, maxSize := d.maxSize }⟩
  | .kind (.register d) => ⟨4, { lsb := d.lsb, width := d.width, cls := d.cls, remap := d.remap }⟩
  | .kind (.optionalRegister d) =>
      ⟨5, { lsb := d.lsb, width := d.width, cls := d.cls, remap := d.remap }⟩
  | .kind (.registerPair d) =>
      ⟨6, { lsb := d.lsb, width := d.width, cls := d.cls, map1 := d.map1, map2 := d.map2 }⟩
  | .kind (.pcRelative d) =>
      ⟨7, { lsb := d.lsb, width := d.width, maxVal := d.maxVal, bias := d.bias, shift := d.shift,
            alignLog2 := d.alignLog2, includeIsa := d.includeIsa, flipIsa := d.flipIsa }⟩
  | .kind (.checkAgainstPrevious d) =>
      ⟨8, { lsb := d.lsb, width := d.width, gt := d.gt, lt := d.lt, eq := d.eq, zero := d.zero }⟩

/-- The packet of an instruction: the inverse of `decodePacket`. -/
def encode : Instr → Packet
  | .decode bytes => .command (encodeHeader .decode false) { bytes := bytes }
  | .classify inst => .command (encodeHeader .classify false) { inst := inst }
  | .resolveTarget inst addr hOpt cur =>
      .command (encodeHeader .resolveTarget false) { inst := inst, addr := addr, hOpt := hOpt, cur := cur }
  | .decodeOne bytes addr hOpt cur =>
      .command (encodeHeader .decodeOne false) { bytes := bytes, addr := addr, hOpt := hOpt, cur := cur }
  | .matchPrologue ops => .command (encodeHeader .matchPrologue false) { ops := ops }
  | .loadSnapshot tid => .command (encodeHeader .loadSnapshot false) { tid := tid }
  | .asRegisterList fp h => .command (encodeHeader .asRegisterList fp) { h := h }
  | .programCounter h => .command (encodeHeader .programCounter false) { h := h }
  | .stackPointer h => .command (encodeHeader .stackPointer false) { h := h }
  | .framePointer h => .command (encodeHeader .framePointer false) { h := h }
  | .get h idx => .command (encodeHeader .get false) { h := h, idx := idx }
  | .copy h => .command (encodeHeader .copy false) { h := h }
  | .setPc h v => .command (encodeHeader .setPc false) { h := h, v := v }
  | .setSp h v => .command (encodeHeader .setSp false) { h := h, v := v }
  | .setDx h v => .command (encodeHeader .setDx false) { h := h, v := v }
  | .descNone w prev => .descriptor (encodeEntry .terminator) w prev
  | .integer d w prev => .descriptor (encodeEntry (.kind (.integer d))) w prev
  | .mappedInteger d w prev => .descriptor (encodeEntry (.kind (.mappedInteger d))) w prev
  | .mostSignificantBit d w prev => .descriptor (encodeEntry (.kind (.mostSignificantBit d))) w prev
  | .register d w prev => .descriptor (encodeEntry (.kind (.register d))) w prev
  | .optionalRegister d w prev => .descriptor (encodeEntry (.kind (.optionalRegister d))) w prev
  | .registerPair d w prev => .descriptor (encodeEntry (.kind (.registerPair d))) w prev
  | .pcRelative d w prev => .descriptor (encodeEntry (.kind (.pcRelative d))) w prev
  | .checkAgainstPrevious d w prev => .descriptor (encodeEntry (.kind (.checkAgainstPrevious d))) w prev

end Sys2Proof
end

