-- ==== Sys2Proof/Machine/Operands.lean ====
section
/-! DEFINITION. The operand descriptor engine (40_operands): integer arithmetic (R108 to R111), one slot
function per descriptor kind (R112 to R122), PC-relative targets (R120, R121) and the rendered operand list
(30_encoding R96). Combinational: the word, a descriptor and the accumulator in, a slot value or none out. -/

namespace Sys2Proof.Machine

/-- `intDecode` of R108, every step modulo 2^64. -/
def intDecode (maxVal bias : Int) (shift width v : Nat) : Word :=
  let V : Word := BitVec.ofNat 64 v
  let M : Word := toBits64 maxVal
  let K : Word := -((1 : Word) <<< width)
  let v1 := V ||| ((M - V) &&& K)
  (v1 + toBits64 bias) <<< shift

/-- The signed value an Integer descriptor decodes a field value to (R112). -/
def intValueAt (d : IntegerDesc) (v : Nat) : Int :=
  signed (intDecode d.maxVal d.bias d.shift d.width v)

/-- R110's closed form of the least value. -/
def intClosedMin (d : IntegerDesc) : Int :=
  (d.maxVal + 1 - 2 ^ d.width + d.bias) * 2 ^ d.shift

/-- R110's closed form of the greatest value. -/
def intClosedMax (d : IntegerDesc) : Int := (d.maxVal + d.bias) * 2 ^ d.shift

/-- R109's and R110's constraint on `maxVal`. -/
def intRegular (d : IntegerDesc) : Bool :=
  -1 ≤ d.maxVal && d.maxVal ≤ 2 ^ d.width - 1

/-- R110: no value overflows 64 bits, said of the two extremes. -/
def intNoOverflow (d : IntegerDesc) : Bool :=
  -(2 ^ 63) ≤ intClosedMin d && intClosedMax d ≤ 2 ^ 63 - 1

/-- The least value over every field value (R110's other definition of `min`). -/
def intLeast (d : IntegerDesc) : Int :=
  (List.range (2 ^ d.width)).foldl (fun m v => min m (intValueAt d v)) (intValueAt d 0)

/-- The greatest value over every field value (R110's other definition of `max`). -/
def intGreatest (d : IntegerDesc) : Int :=
  (List.range (2 ^ d.width)).foldl (fun m v => max m (intValueAt d v)) (intValueAt d 0)

/-- `min` of R110. -/
def intMin (d : IntegerDesc) : Int :=
  if intRegular d && intNoOverflow d then intClosedMin d else intLeast d

/-- `max` of R110. -/
def intMax (d : IntegerDesc) : Int :=
  if intRegular d && intNoOverflow d then intClosedMax d else intGreatest d

/-- `intEncode` of R111: none where the rule leaves it undefined. -/
def intEncode (d : IntegerDesc) (x : Int) : Option Nat :=
  if intMin d ≤ x ∧ x ≤ intMax d ∧ x % 2 ^ d.shift = 0 then
    some ((x / 2 ^ d.shift - d.bias) % 2 ^ d.width).toNat
  else none

/-- Integer slot (R112): it always gives a value. -/
def slotInteger (d : IntegerDesc) (w : Word32) : Option SlotValue :=
  some (.int (intDecode d.maxVal d.bias d.shift d.width (extract w d.lsb d.width)))

/-- MappedInteger slot (R113): no value where the map has no entry. -/
def slotMappedInteger (d : MappedIntegerDesc) (w : Word32) : Option SlotValue :=
  (d.map.lookup (extract w d.lsb d.width)).map fun y => .int (toBits64 y)

/-- The position a MostSignificantBit descriptor gives, with the LSB operand `lsbPos` (R115). -/
def msbPosition (d : MsbDesc) (lsbPos : Int) (w : Word32) : Int :=
  (if d.addLsb then lsbPos else 0) + extract w d.lsb d.width + d.bias

/-- MostSignificantBit slot (R115): it needs an Int before it, and a bitfield that is not empty and lies in
bits 0 to `maxSize - 1`. -/
def slotMsb (d : MsbDesc) (w : Word32) (prev : Option SlotValue) : Option SlotValue :=
  match prev with
  | some (.int l) =>
      let msb := msbPosition d (signed l) w
      if msb - signed l + 1 < 1 ∨ signed l < 0 ∨ msb ≥ d.maxSize then none
      else some (.int (toBits64 msb))
  | _ => none

/-- The register a Register or OptionalRegister descriptor names (R116). -/
def regIdOf (d : RegisterDesc) (w : Word32) : Option RegId :=
  let v := extract w d.lsb d.width
  match d.remap with
  | none => some ⟨d.cls, v⟩
  | some m => (m.lookup v).map fun k => ⟨d.cls, k⟩

/-- Register slot (R116). -/
def slotRegister (d : RegisterDesc) (w : Word32) : Option SlotValue :=
  (regIdOf d w).map .reg

/-- The preceding slot holds the register `id` (R117). -/
def precedingIs (prev : Option SlotValue) (id : RegId) : Bool :=
  prev == some (.reg id) || prev == some (.optReg id true) || prev == some (.optReg id false)

/-- OptionalRegister slot (R117): elidable exactly when the preceding slot holds the same register. -/
def slotOptionalRegister (d : RegisterDesc) (w : Word32) (prev : Option SlotValue) : Option SlotValue :=
  (regIdOf d w).map fun id => .optReg id (precedingIs prev id)

/-- RegisterPair slot (R118): no value when either map lacks the field. -/
def slotPair (d : PairDesc) (w : Word32) : Option SlotValue :=
  let v := extract w d.lsb d.width
  match d.map1.lookup v, d.map2.lookup v with
  | some a, some b => some (.pair ⟨d.cls, a⟩ ⟨d.cls, b⟩)
  | _, _ => none

/-- PCRelative slot (R119): it records the offset and the resolution parameters. -/
def slotPcRel (d : PcRelDesc) (w : Word32) : Option SlotValue :=
  some (.pcRel (intDecode d.maxVal d.bias d.shift d.width (extract w d.lsb d.width))
    d.alignLog2 d.includeIsa d.flipIsa)

/-- The number a CheckAgainstPrevious descriptor compares with (R122): the preceding integer read signed,
or the preceding register's number. -/
def comparand : Option SlotValue → Option Int
  | some (.int x) => some (signed x)
  | some (.reg id) => some id.num
  | some (.optReg id _) => some id.num
  | _ => none

/-- R122's gates, ANDed: each set flag is a condition, a clear flag imposes nothing. -/
def checkPasses (d : CheckDesc) (v : Nat) (p : Int) : Bool :=
  (!d.gt || decide ((v : Int) > p)) && (!d.lt || decide ((v : Int) < p)) &&
  (!d.eq || decide ((v : Int) = p)) && (!d.zero || decide (v = 0))

/-- CheckAgainstPrevious slot (R122): it records Empty when it passes. -/
def slotCheck (d : CheckDesc) (w : Word32) (prev : Option SlotValue) : Option SlotValue :=
  match comparand prev with
  | some p => if checkPasses d (extract w d.lsb d.width) p then some .empty else none
  | none => none

/-- `decodeSlot(d, w, prev)` of R106, one case per kind. -/
def decodeSlot (d : Desc) (w : Word32) (prev : Option SlotValue) : Option SlotValue :=
  match d with
  | .integer d => slotInteger d w
  | .mappedInteger d => slotMappedInteger d w
  | .mostSignificantBit d => slotMsb d w prev
  | .register d => slotRegister d w
  | .optionalRegister d => slotOptionalRegister d w prev
  | .registerPair d => slotPair d w
  | .pcRelative d => slotPcRel d w
  | .checkAgainstPrevious d => slotCheck d w prev

/-- `pcrelTarget` of R120, modulo 2^64; the ISA-mode bit is bit 0, and the flip applies only when the bit
was reinstated (R121). -/
def pcrelTarget (base off : Word) (a : Nat) (inc flip : Bool) : Word :=
  let t := (base &&& ~~~(((1 : Word) <<< a) - 1)) + off
  if inc then
    let r := (t &&& ~~~(1 : Word)) ||| (base &&& 1)
    if flip then r ^^^ 1 else r
  else t

/-- A slot shown in the rendered operand list (30_encoding R96): neither Empty nor an elidable OptReg. -/
def slotShown : SlotValue → Bool
  | .empty => false
  | .optReg _ elidable => !elidable
  | .int _ => true
  | .reg _ => true
  | .pair _ _ => true
  | .pcRel _ _ _ _ => true

/-- The rendered operand list of an Instruction (30_encoding R96). -/
def renderedOperands (i : Instruction) : List SlotValue :=
  i.args.toList.filter slotShown

end Sys2Proof.Machine
end

