-- ==== Sys2Proof/Machine/Layout.lean ====
section
/-! DEFINITION. What the configuration's data mean: register slots and their names, the layouts of the
register blocks (20_memory R65), the opcode maps (R8, 30_encoding R96). -/

namespace Sys2Proof.Machine

/-- Every register slot, general-purpose first (10_state R29). -/
def allSlots (c : Cfg) : List RegSel :=
  (List.range c.numGpr).map .gpr ++ (List.range c.numSpecial).map .special

/-- The slot exists (10_state R29). -/
def hasSlot (c : Cfg) : RegSel → Bool
  | .gpr i => i < c.numGpr
  | .special j => j < c.numSpecial

/-- `S.reg[r]` of 00_scope R14. A slot the file does not have reads as 0; no well-formed state reads one. -/
def readSlot (f : RegFile) : RegSel → Word
  | .gpr i => f.gpr.getD i 0
  | .special j => f.special.getD j 0

/-- `S.reg[r] <- v` of 00_scope R14, on the snapshot's own copy. No slot is hardwired (10_state R32). -/
def writeSlot (f : RegFile) (r : RegSel) (v : Word) : RegFile :=
  match r with
  | .gpr i => { f with gpr := f.gpr.set i v }
  | .special j => { f with special := f.special.set j v }

/-- `REG_NAME(r)` (10_state R30). -/
def regName (c : Cfg) (r : RegSel) : String := (c.regNames.lookup r).getD ""

/-- `FP_NAME(k)` (10_state R38). -/
def fpName (c : Cfg) (k : Nat) : String := c.fpNames.getD k ""

/-- `KIND_OF`: every opcode it does not send elsewhere is Other (43_classifier R161). -/
def kindOf (c : Cfg) (o : Opcode) : Kind := (c.kinds.lookup o).getD .other

/-- The response code of a kind (30_encoding R87). -/
def kindCode : Kind → Nat
  | .other => 0
  | .call => 1
  | .ret => 2
  | .unconditionalJump => 3

/-- A mnemonic is the name of the Opcode value (30_encoding R96, R98). -/
def mnemonic (c : Cfg) : Opcode → String
  | .ldr => "LDR"
  | .sub => "SUB"
  | .cmp => "CMP"
  | .b => "B"
  | .mov => "MOV"
  | .isa n => c.opcodeNames.getD n ""

/-- The byte positions of a slot in a positional layout. -/
def slotPositions (slots : List (RegSel × List Nat)) (r : RegSel) : List Nat :=
  (slots.lookup r).getD []

/-- The values at byte positions `ps` of a block, as one number, the first position least significant. -/
def natAt (bytes : List Byte) (ps : List Nat) : Nat :=
  natOfBytes (ps.map fun p => bytes.getD p 0)

/-- One slot read from its byte positions. -/
def positionsSlot (slots : List (RegSel × List Nat)) (bytes : List Byte) (r : RegSel) : Word :=
  BitVec.ofNat 64 (natAt bytes (slotPositions slots r))

/-- The bytes a positional layout owns: position, slot, byte number within the slot. -/
def ownedBytes (c : Cfg) (slots : List (RegSel × List Nat)) : List (Nat × RegSel × Nat) :=
  (allSlots c).flatMap fun r => (slotPositions slots r).zipIdx.map fun pk => (pk.1, r, pk.2)

/-- The byte at position `p` of a block laid out by byte positions. -/
def positionsByte (c : Cfg) (slots : List (RegSel × List Nat)) (pad : Byte) (f : RegFile) (p : Nat) : Byte :=
  match (ownedBytes c slots).lookup p with
  | some (r, k) => byteOfWord (readSlot f r) k
  | none => pad

/-- The register file whose slots have the values `value` gives. -/
def regFileOf (c : Cfg) (value : RegSel → Word) : RegFile :=
  { gpr := (List.range c.numGpr).map fun i => value (.gpr i)
    special := (List.range c.numSpecial).map fun j => value (.special j) }

/-- The place of a slot in `allSlots`. -/
def slotIndex (c : Cfg) : RegSel → Nat
  | .gpr i => i
  | .special j => c.numGpr + j

/-- The byte at position `p` of a plain block: the slots one after another, eight bytes each, then zeros. -/
def plainByte (c : Cfg) (f : RegFile) (p : Nat) : Byte :=
  match (allSlots c)[p / 8]? with
  | some r => byteOfWord (readSlot f r) (p % 8)
  | none => 0

/-- One slot read from a plain block. -/
def plainSlot (c : Cfg) (bytes : List Byte) (r : RegSel) : Word :=
  BitVec.ofNat 64 (natAt bytes (List.range' (8 * slotIndex c r) 8))

/-- `GPR_SERIALIZE` of the uninterpreted layout that the rearrangement `π` gives: the plain block, rearranged. -/
def openSerialize (c : Cfg) (π : Equiv.Perm (Fin c.gprBlockBytes → Byte)) (f : RegFile) : List Byte :=
  List.ofFn (π fun p => plainByte c f p)

/-- The register file that could serialise to a block under `π`: the block, rearranged back, read plainly. -/
def openCandidate (c : Cfg) (π : Equiv.Perm (Fin c.gprBlockBytes → Byte)) (bytes : List Byte) : RegFile :=
  regFileOf c (plainSlot c (List.ofFn (π.symm fun p => bytes.getD p 0)))

/-- One slot of `GPR_PARSE` of the uninterpreted layout that `π` gives: of a block that a register file
serialises to, that file's slot; of any other block, what `other` says. -/
def openSlot (c : Cfg) (π : Equiv.Perm (Fin c.gprBlockBytes → Byte)) (other : List Byte → RegSel → Word)
    (bytes : List Byte) (r : RegSel) : Word :=
  if openSerialize c π (openCandidate c π bytes) = bytes then readSlot (openCandidate c π bytes) r
  else other bytes r

/-- One slot of `GPR_PARSE(bytes)` (20_memory R65). -/
def parseSlot (c : Cfg) (bytes : List Byte) (r : RegSel) : Word :=
  match c.gprLayout with
  | .positions slots _ => positionsSlot slots bytes r
  | .uninterpreted n =>
      openSlot c (Config.openGprOrder n c.gprBlockBytes) (Config.openGprParse n) bytes r

/-- `GPR_PARSE(bytes)`: the value of every slot (20_memory R65). -/
def gprParse (c : Cfg) (bytes : List Byte) : RegFile := regFileOf c (parseSlot c bytes)

/-- `GPR_SERIALIZE(reg)`: `GPR_BLOCK_BYTES` bytes (20_memory R65). -/
def gprSerialize (c : Cfg) (f : RegFile) : List Byte :=
  match c.gprLayout with
  | .positions slots pad => (List.range c.gprBlockBytes).map fun p => positionsByte c slots pad f p
  | .uninterpreted n => openSerialize c (Config.openGprOrder n c.gprBlockBytes) f

/-- One register of `FP_PARSE(bytes)`, an `FP_BITS`-bit pattern (20_memory R65, 10_state R38). -/
def parseFpReg (c : Cfg) (bytes : List Byte) (k : Nat) : Nat :=
  (match c.fpLayout with
   | .positions regs => natAt bytes (regs.getD k [])
   | .uninterpreted n => Config.openFpParse n bytes k) % 2 ^ c.fpBits

/-- The opcodes of a prologue's getG instruction (`TPL_GETG`, 43_classifier R168). -/
def tplGetG : List Opcode := [.ldr]

/-- `TPL_TINY` (43_classifier R168). -/
def tplTiny : List Opcode := [.mov, .cmp, .b]

/-- `TPL_SMALL` (43_classifier R168). -/
def tplSmall : List Opcode := [.sub, .cmp, .b]

end Sys2Proof.Machine
end

