-- ==== Sys2Proof/Machine/Build.lean ====
section
/-! DEFINITION. Building the block (70_reset_and_hazards R200): the checks a configuration passes, by name,
and the configuration a built block holds. -/

namespace Sys2Proof.Machine

/-- The checks on one stored descriptor: WF-TAG, then those of its kind (30_encoding R83). -/
def rawDescFailed (raw : RawDesc) : Option BuildCheck :=
  match decodeEntry raw with
  | none => some .tag
  | some .terminator => none
  | some (.kind d) => d.failed

/-- Every argument after the first terminator is a terminator (92_eei_decisions D14). -/
def onlyTerminatorsAfterFirst (args : List RawDesc) : Bool :=
  (args.dropWhile (·.tag != 0)).all (·.tag == 0)

/-- The checks on one row: WF-ROW-VALUE (30_encoding R79), each of its five descriptors (R83), and what stands
after its terminator (R80, D14). -/
def rowFailed (row : Row) : Option BuildCheck :=
  if row.value &&& ~~~row.mask ≠ 0 then some .rowValue
  else match row.args.toList.findSome? rawDescFailed with
    | some failure => some failure
    | none => if onlyTerminatorsAfterFirst row.args.toList then none else some .afterTerminator

/-- A register block under the layout can be parsed back (20_memory R65). A positional layout gives every slot
eight byte positions inside the block and no position to two bytes; for an uninterpreted one the block has
room for the slots, without which no layout can be parsed back (`Laws.lawful_layout_has_room`). -/
def layoutOk (c : Cfg) : Bool :=
  match c.gprLayout with
  | .uninterpreted _ => 8 * (c.numGpr + c.numSpecial) ≤ c.gprBlockBytes
  | .positions slots _ =>
      (allSlots c).all (fun r =>
        (slotPositions slots r).length == 8 && (slotPositions slots r).all (· < c.gprBlockBytes)) &&
      decide ((allSlots c).flatMap (slotPositions slots)).Nodup

/-- The checks on the parameters other than the table (R200). -/
def parameterChecks (c : Cfg) : List (BuildCheck × Bool) :=
  [(.numSpecial, 1 ≤ c.numSpecial),
   (.fixedSlot, hasSlot c c.pcSlot && hasSlot c c.spSlot && hasSlot c c.fpSlot),
   (.slotsDistinct, c.pcSlot ≠ c.spSlot && c.pcSlot ≠ c.fpSlot && c.spSlot ≠ c.fpSlot),
   (.listOrder, c.listOrder.isPerm (allSlots c)),
   (.template, c.tplBig ≠ some []),
   (.layout, layoutOk c)]

/-- The first build check a configuration fails: the table's rows in order, then the parameters. -/
def cfgFailed (c : Cfg) : Option BuildCheck :=
  match c.table.findSome? rowFailed with
  | some failure => some failure
  | none => firstFailed (parameterChecks c)

/-- The configuration passes every build check (R200). -/
def cfgWf (c : Cfg) : Bool := (cfgFailed c).isNone

/-- A smallest configuration that passes the checks: an empty table and three register slots. It stands
where `Config.rawCfg` is refused, so that `builtCfg` is a built configuration whatever `rawCfg` is. -/
def smallestCfg : Cfg :=
  { isaName := "", opcodeNames := [], table := [], kinds := []
    numGpr := 2, numSpecial := 1, pcSlot := .special 0, spSlot := .gpr 0, fpSlot := .gpr 1
    regNames := [], listOrder := [.gpr 0, .gpr 1, .special 0]
    gprBlockBytes := 24
    gprLayout := .positions
      [(.gpr 0, List.range 8), (.gpr 1, List.range' 8 8), (.special 0, List.range' 16 8)] 0
    numFpr := 0, fpBits := 0, fpRawBytes := 0, fpLayout := .positions [], fpNames := [] }

/-- The configuration of the built block (R199, R200; log 1): `Config.rawCfg` when it passes the checks. -/
def builtCfg : Cfg := if cfgWf Config.rawCfg then Config.rawCfg else smallestCfg

end Sys2Proof.Machine
end

