-- ==== Sys2Proof/Machine/State.lean ====
section
/-! DEFINITION. The state of the block as plain data (10_state), what a step can stop with, and the state
after reset (70_reset_and_hazards R197). -/

namespace Sys2Proof.Machine

/-- A floating-point block (10_state R38): `fregs` are `FP_BITS`-bit patterns, never interpreted. -/
structure FpBlock where
  fregs : List Nat
  raw : List Byte
  deriving DecidableEq, Repr

/-- The cause of a RegisterTransportError (60_exceptions R183). -/
inductive Cause where
  | transport (e : TransportErr)
  | malformed
  deriving DecidableEq, Repr

/-- The outcome of the lazy floating-point load, recorded for good (10_state R39). -/
inductive FpResult where
  | loaded (b : FpBlock)
  | unavailable
  | failed (c : Cause)
  deriving DecidableEq, Repr

/-- The floating-point state of a snapshot (10_state R39): `pending`, or one of the three other values. -/
inductive FpState where
  | pending
  | resolved (r : FpResult)
  deriving DecidableEq, Repr

/-- A snapshot (10_state R28). -/
structure Snapshot where
  tid : ThreadId
  reg : RegFile
  fp : FpState
  live : Bool
  deriving DecidableEq, Repr

/-- A resolved target (30_encoding R88). -/
structure Location where
  addr : Word
  src : Option SrcInfo
  deriving DecidableEq, Repr

/-- Response statuses (60_exceptions R178). `floatingPointUnavailable` is never returned (R184). -/
inductive Status where
  | ok
  | truncatedInput
  | unknownEncoding
  | unknownRegister
  | unsupportedRegisterOperation
  | registerTransportError
  | floatingPointUnavailable
  | unknownCommand
  | invalidHandle
  deriving DecidableEq, Repr

/-- A register's value in a register list: a 64-bit slot or a floating-point pattern (42_snapshot R142). -/
inductive RegValue where
  | word (v : Word)
  | fp (bits : Nat)
  deriving DecidableEq, Repr

/-- What a response carries beside its status (30_encoding R91, 60_exceptions R178). -/
inductive Payload where
  | none
  | decoded (inst : Instruction) (row : Nat)
  | kind (k : Kind)
  | location (loc : Option Location)
  | decodedOne (inst : Instruction) (row : Nat) (k : Kind) (loc : Option Location)
  | prologue (matched : Bool) (tpl : Option Nat)
  | handle (h : Nat)
  | registers (list : List (String × RegValue)) (fpUnavailable : Bool)
  | value (v : Word)
  | cause (c : Cause)
  deriving DecidableEq, Repr

/-- A response (30_encoding R89). -/
structure Response where
  status : Status
  payload : Payload
  deriving DecidableEq, Repr

/-- An entry of the transport trace (20_memory R64). -/
inductive TransportCall where
  | read (tid : ThreadId) (answer : ReadAnswer)
  | write (tid : ThreadId) (bytes : List Byte) (answer : WriteAnswer)
  | readFp (tid : ThreadId) (answer : FpAnswer)
  deriving DecidableEq, Repr

/-- A call at the resolver port with its answer (20_memory R66; log 4). -/
structure ResolveCall where
  addr : Word
  answer : ResolveAnswer
  deriving DecidableEq, Repr

/-- The output wire of the operand descriptor engine (40_operands R106; log 3): nothing run yet, the
terminator, no value, or a slot value. -/
inductive SlotOut where
  | idle
  | terminator
  | noValue
  | value (s : SlotValue)
  deriving DecidableEq, Repr

/-- The answers the environment will give next, per call, first to be given first (20_memory R61, R66;
log 5). A call with no answer listed is answered by a free value. -/
structure Oracle where
  reads : List ReadAnswer
  writes : List WriteAnswer
  fpReads : List FpAnswer
  resolves : List ResolveAnswer
  deriving DecidableEq, Repr

/-- What the outside presents to the block: a packet to run, or the host event `Resume` (60 R193). -/
inductive Event where
  | packet (p : Packet)
  | resume (tid : ThreadId)
  deriving DecidableEq, Repr

/-- The snapshot store `Nat ⇀ Snapshot` (10_state R25), as (handle, snapshot) pairs (log 7). -/
abbrev Store := List (Nat × Snapshot)

/-- The state. `store` and `next` are 10_state R25's; `trace` and the port's `pending` are 70 R197's;
`responses` is the response stream of 20_memory R64. `cfg` is the configuration (log 1); `resolves`,
`slotOut`, `oracle` and `draws` are the model's own (logs 3 to 6). -/
structure State where
  cfg : Cfg
  store : Store
  next : Nat
  trace : List TransportCall
  pending : List Event
  responses : List Response
  resolves : List ResolveCall
  slotOut : SlotOut
  oracle : Oracle
  draws : Nat
  deriving DecidableEq, Repr

/-- No step stops with a fault: the block raises no trap, and every error of the spec is a response
(60_exceptions R177, R190). The type has no constructor, so nobody raises one. -/
inductive Fault where
  deriving DecidableEq, Repr

/-- Why a packet or a configuration is refused. -/
inductive Refusal where
  /-- An instruction the model gives no meaning yet; raised by `exec`'s arms only. Safe: it stops. -/
  | notModelled (mnemonic : String)
  /-- A descriptor with a reserved tag 9 to 15 presented to the engine; raised by `step` only. Safe: it
  stops. The spec gives such a tag no meaning: a table that uses one is refused (30_encoding R82, R83). -/
  | reservedTag (tag : BitVec 4)
  /-- A configuration that fails a build check; raised by `boot` only. Safe: 70 R200 refuses it and gives
  no block. -/
  | illFormedConfig (failure : BuildCheck)
  deriving DecidableEq, Repr

/-- A block just built with configuration `c`, after reset (70 R197): the store empty, `next = 0`, the
trace empty, the port idle. -/
def State.resetWith (c : Cfg) : State :=
  { cfg := c, store := [], next := 0, trace := [], pending := [], responses := [], resolves := []
    slotOut := .idle, oracle := ⟨[], [], [], []⟩, draws := 0 }

/-- The machine right after reset (70 R197), with the configuration it was built with (R199; log 1). -/
def State.reset : State := State.resetWith builtCfg

end Sys2Proof.Machine
end

