-- ==== Sys2Proof/Machine/Ops.lean ====
section
/-! DEFINITION. The named operations over the state: responding and raising an error (60_exceptions R177, the
block's only form of exception: no handler, no vector, nothing saved), the snapshot store (10_state
R25 to R27), the transport and resolver ports (20_memory R61 to R66), the lazy floating-point load
(42_snapshot R143), the write-back (R152), and the host's Resume (60 R193). -/

namespace Sys2Proof.Machine

/-- The numeric code of a status (60_exceptions R178). -/
def statusCode : Status → BitVec 8
  | .ok => 0x00
  | .truncatedInput => 0x01
  | .unknownEncoding => 0x02
  | .unknownRegister => 0x03
  | .unsupportedRegisterOperation => 0x04
  | .registerTransportError => 0x05
  | .floatingPointUnavailable => 0x06
  | .unknownCommand => 0x07
  | .invalidHandle => 0x08

/-- One response to the command in progress (30_encoding R89, 20_memory R69). -/
def State.respond (s : State) (st : Status) (p : Payload) : State :=
  { s with responses := s.responses ++ [⟨st, p⟩] }

/-- `return Ok(p)` of 00_scope R14. -/
def State.ok (s : State) (p : Payload) : State := s.respond .ok p

/-- `raise E(p)` of 60_exceptions R177: one response with the error's status; what the command has already
changed stays (R188). -/
def State.raise (s : State) (e : Status) (p : Payload := .none) : State := s.respond e p

/-- `store(h)` (10_state R25). -/
def State.snapshot (s : State) (h : Nat) : Option Snapshot := s.store.lookup h

/-- The store with handle `h` naming `S`, handles kept in rising order. -/
def storeInsert : Store → Nat → Snapshot → Store
  | [], h, S => [(h, S)]
  | (k, T) :: rest, h, S =>
      if h < k then (h, S) :: (k, T) :: rest
      else if h = k then (h, S) :: rest
      else (k, T) :: storeInsert rest h S

/-- `store(h) := S`. -/
def State.setSnapshot (s : State) (h : Nat) (S : Snapshot) : State :=
  { s with store := storeInsert s.store h S }

/-- `h := next; next := next + 1; store(h) := S` (10_state R26). -/
def State.alloc (s : State) (S : Snapshot) : State :=
  { s.setSnapshot s.next S with next := s.next + 1 }

/-- `S := lookup(h)` (42_snapshot R156): InvalidHandle when no snapshot has the handle. -/
def State.withSnapshot (s : State) (h : Nat) (k : Snapshot → State) : State :=
  match s.snapshot h with
  | none => s.raise .invalidHandle
  | some S => k S

/-- The check of an optional handle `h?` (43_classifier R164, R166). -/
def State.handleKnown (s : State) : Option Nat → Bool
  | none => true
  | some h => (s.snapshot h).isSome

/-- The answer of the next `TRead(tid)` (20_memory R61): the oracle's next, else a free value. -/
def State.readAnswer (s : State) (tid : ThreadId) : ReadAnswer :=
  s.oracle.reads.headD (Config.freeRead s.draws tid)

/-- The state after `TRead(tid)` has been answered: one trace entry (R64). -/
def State.afterRead (s : State) (tid : ThreadId) : State :=
  { s with trace := s.trace ++ [.read tid (s.readAnswer tid)]
           oracle := { s.oracle with reads := s.oracle.reads.tail }
           draws := s.draws + 1 }

/-- The answer of the next `TWrite(tid, bytes)` (R61). -/
def State.writeAnswer (s : State) (tid : ThreadId) (bytes : List Byte) : WriteAnswer :=
  s.oracle.writes.headD (Config.freeWrite s.draws tid bytes)

/-- The state after `TWrite(tid, bytes)` has been answered: one trace entry (R64). -/
def State.afterWrite (s : State) (tid : ThreadId) (bytes : List Byte) : State :=
  { s with trace := s.trace ++ [.write tid bytes (s.writeAnswer tid bytes)]
           oracle := { s.oracle with writes := s.oracle.writes.tail }
           draws := s.draws + 1 }

/-- The answer of the next `TReadFp(tid)` (R61). -/
def State.fpAnswer (s : State) (tid : ThreadId) : FpAnswer :=
  s.oracle.fpReads.headD (Config.freeReadFp s.draws tid)

/-- The state after `TReadFp(tid)` has been answered: one trace entry (R64). -/
def State.afterReadFp (s : State) (tid : ThreadId) : State :=
  { s with trace := s.trace ++ [.readFp tid (s.fpAnswer tid)]
           oracle := { s.oracle with fpReads := s.oracle.fpReads.tail }
           draws := s.draws + 1 }

/-- The answer of the next `Resolve(addr)` (R66). -/
def State.resolveAnswer (s : State) (addr : Word) : ResolveAnswer :=
  s.oracle.resolves.headD (Config.freeResolve s.draws addr)

/-- The state after `Resolve(addr)` has been answered: no transport call, one resolver call (log 4). -/
def State.afterResolve (s : State) (addr : Word) : State :=
  { s with resolves := s.resolves ++ [⟨addr, s.resolveAnswer addr⟩]
           oracle := { s.oracle with resolves := s.oracle.resolves.tail }
           draws := s.draws + 1 }

/-- `FP_PARSE(bytes)`: `raw` is the block itself (20_memory R65). -/
def fpParse (c : Cfg) (bytes : List Byte) : FpBlock :=
  ⟨(List.range c.numFpr).map (parseFpReg c bytes), bytes⟩

/-- What an answer of `TReadFp` makes of a pending loader (42_snapshot R143). -/
def fpOutcome (c : Cfg) : FpAnswer → FpResult
  | .ok bytes => if bytes.length = c.fpRawBytes then .loaded (fpParse c bytes) else .failed .malformed
  | .notAvailable => .unavailable
  | .err e => .failed (.transport e)

/-- What `fpResolve(h)` of R143 returns for a snapshot `S`. -/
def State.fpResult (s : State) (S : Snapshot) : FpResult :=
  match S.fp with
  | .pending => fpOutcome s.cfg (s.fpAnswer S.tid)
  | .resolved r => r

/-- The state after `fpResolve(h)` (R143): a pending loader is invoked, once, and its outcome recorded. -/
def State.fpResolve (s : State) (h : Nat) (S : Snapshot) : State :=
  match S.fp with
  | .pending => (s.afterReadFp S.tid).setSnapshot h { S with fp := .resolved (s.fpResult S) }
  | .resolved _ => s

/-- The registers a setter may write (42_snapshot R152). -/
inductive MutableReg where
  | pc | sp
  deriving DecidableEq, Repr

/-- `MUTABLE(which)` (00_scope R8). -/
def isMutable (c : Cfg) : MutableReg → Bool
  | .pc => c.mutablePc
  | .sp => c.mutableSp

/-- The slot of a mutable register (R152). -/
def mutableSlot (c : Cfg) : MutableReg → RegSel
  | .pc => c.pcSlot
  | .sp => c.spSlot

/-- R152's `draw x in (old, new)` after a failed write: free value, either of the two (log 6). -/
def State.drawnAfterFailure (s : State) (old new : Word) : Word :=
  if Config.drawNew s.draws then new else old

/-- `writeBack(h, which, v)` of 42_snapshot R152, after the handle check. -/
def State.writeBack (s : State) (h : Nat) (S : Snapshot) (which : MutableReg) (v : Word) : State :=
  if isMutable s.cfg which then
    let slot := mutableSlot s.cfg which
    let reg' := writeSlot S.reg slot v
    let bytes := gprSerialize s.cfg reg'
    let s' := s.afterWrite S.tid bytes
    match s.writeAnswer S.tid bytes with
    | .ok => (s'.setSnapshot h { S with reg := reg' }).ok .none
    | .err e =>
        let x := s.drawnAfterFailure (readSlot S.reg slot) v
        (s'.setSnapshot h { S with reg := writeSlot S.reg slot x }).raise
          .registerTransportError (.cause (.transport e))
  else s.raise .unsupportedRegisterOperation

/-- UnknownCommand (60_exceptions R185): state and trace unchanged but for the response. -/
def State.unknownCommand (s : State) : State := s.raise .unknownCommand

/-- Fresh draws for every slot of a register file (60_exceptions R193; log 6). -/
def drawnRegs (draw h : Nat) (f : RegFile) : RegFile :=
  { gpr := (List.range f.gpr.length).map fun i => Config.drawReg draw h (.gpr i)
    special := (List.range f.special.length).map fun j => Config.drawReg draw h (.special j) }

/-- What `Resume(tid)` makes of the snapshot with handle `h` (R193): a live snapshot of the thread takes
fresh values, its floating-point state and every other snapshot stay. -/
def resumeSnapshot (draw : Nat) (tid : ThreadId) (h : Nat) (S : Snapshot) : Snapshot :=
  if S.live ∧ S.tid = tid then { S with reg := drawnRegs draw h S.reg } else S

/-- The host event `Resume(tid)` (R193); no response. -/
def State.resumeThread (s : State) (tid : ThreadId) : State :=
  { s with store := s.store.map fun hS => (hS.1, resumeSnapshot s.draws tid hS.1 hS.2)
           draws := s.draws + 1 }

/-- The state with the first pending event taken from the port. -/
def State.popEvent (s : State) : State := { s with pending := s.pending.tail }

end Sys2Proof.Machine
end

