-- ==== Sys2Proof/Machine/Decoder.lean ====
section
/-! DEFINITION. The instruction decoder (41_decoder): the decode function R132 and the DECODE command. -/

namespace Sys2Proof.Machine

/-- Slot decoding of one row (R134): the entries in order, the accumulator threaded (40_operands R124),
ending at the terminator (30_encoding R80), and failing at the first slot without a value. The result
lists the slots decoded. A reserved tag, which no built table holds, fails. -/
def decodeArgs (w : Word32) : Option SlotValue → List RawDesc → Option (List SlotValue)
  | _, [] => some []
  | prev, raw :: rest =>
      match decodeEntry raw with
      | none => none
      | some .terminator => some []
      | some (.kind d) =>
          match decodeSlot d w prev with
          | none => none
          | some s => (decodeArgs w (some s) rest).map (s :: ·)

/-- Five slots, those past the last decoded one Empty (R135). -/
def padSlots (l : List SlotValue) : Vector SlotValue 5 :=
  #v[l.getD 0 .empty, l.getD 1 .empty, l.getD 2 .empty, l.getD 3 .empty, l.getD 4 .empty]

/-- `decodeRow(row, w)` of R132: the accumulator starts at none for each row. -/
def decodeRow (row : Row) (w : Word32) : Option (Vector SlotValue 5) :=
  (decodeArgs w none row.args.toList).map padSlots

/-- R133's step 1: `word & mask = value`. -/
def maskMatches (row : Row) (w : Word32) : Bool := w &&& row.mask == row.value

/-- R133's step 2: the extra predicate, if any, holds. -/
def predHolds (row : Row) (w : Word32) : Bool := row.pred.all (evalPred w)

/-- One row tried in R133's three steps; the result carries the raw word and size 4 (R135). -/
def tryRow (row : Row) (w : Word32) : Option Instruction :=
  if maskMatches row w && predHolds row w then
    (decodeRow row w).map fun slots => ⟨row.opcode, slots, w, 4⟩
  else none

/-- The rows in table order from index `r`: the first that decodes wins (R135). -/
def searchRows (w : Word32) : Nat → List Row → Option (Instruction × Nat)
  | _, [] => none
  | r, row :: rest =>
      match tryRow row w with
      | some inst => some (inst, r)
      | none => searchRows w (r + 1) rest

/-- The two decode errors (R132). -/
inductive DecodeFailure where
  | truncatedInput
  | unknownEncoding
  deriving DecidableEq, Repr

/-- `decode(bytes)` of R132. It reads the configuration and nothing else. -/
def decodeBytes (c : Cfg) (bytes : List Byte) : Except DecodeFailure (Instruction × Nat) :=
  match assembleWord c.byteOrder bytes with
  | none => .error .truncatedInput
  | some w =>
      match searchRows w 0 c.table with
      | none => .error .unknownEncoding
      | some result => .ok result

/-- The status of a decode error (60_exceptions R179, R180). -/
def failureStatus : DecodeFailure → Status
  | .truncatedInput => .truncatedInput
  | .unknownEncoding => .unknownEncoding

/-- DECODE (R131). -/
def execDecode (bytes : List Byte) (s : State) : Host.Outcome State Fault Refusal :=
  .next (match decodeBytes s.cfg bytes with
    | .ok (inst, r) => s.ok (.decoded inst r)
    | .error e => s.raise (failureStatus e))

end Sys2Proof.Machine
end

