-- ==== Sys2Proof/Machine/Classifier.lean ====
section
/-! DEFINITION. The control-flow classifier (43_classifier): CLASSIFY, RESOLVE_TARGET, DECODE_ONE and
MATCH_PROLOGUE. None writes the store or the trace. -/

namespace Sys2Proof.Machine

/-- The highest-indexed slot that is not Empty (R162, D32's default). -/
def lastSlot (inst : Instruction) : Option Nat :=
  [4, 3, 2, 1, 0].find? fun k => inst.args.toList.getD k .empty != .empty

/-- `TARGET_SLOT(inst)` (R162): the last non-empty slot, unless the configuration's parameter names another
for the opcode (00_scope R8). -/
def targetSlot (c : Cfg) (inst : Instruction) : Option Nat :=
  match c.targetSlots.lookup inst.opcode with
  | some k => some k
  | none => lastSlot inst

/-- The register-indirect target (R163): only a general-purpose register, in range, of a snapshot of the
current thread. -/
def registerTarget (s : State) (id : RegId) (hOpt : Option Nat) (cur : ThreadId) : Option Word :=
  match hOpt.bind s.snapshot with
  | some S =>
      if S.tid = cur ∧ id.cls = .gpr ∧ id.num < s.cfg.numGpr then some (readSlot S.reg (.gpr id.num))
      else none
  | none => none

/-- `targetAddr(inst, addr, h?, cur)` of R163. -/
def targetAddr (s : State) (inst : Instruction) (addr : Word) (hOpt : Option Nat) (cur : ThreadId) :
    Option Word :=
  match targetSlot s.cfg inst with
  | none => none
  | some k =>
      match inst.args.toList.getD k .empty with
      | .int v => some v
      | .pcRel off a inc flip => some (pcrelTarget (addr + s.cfg.pcrelBaseOffset) off a inc flip)
      | .reg id => registerTarget s id hOpt cur
      | .optReg id _ => registerTarget s id hOpt cur
      | .pair _ _ => none
      | .empty => none

/-- The kinds whose destination is resolved (R164). -/
def resolvesTarget : Kind → Bool
  | .call => true
  | .unconditionalJump => true
  | .other => false
  | .ret => false

/-- The address RESOLVE_TARGET and DECODE_ONE look up, if any (R164, R166). -/
def targetToResolve (s : State) (inst : Instruction) (addr : Word) (hOpt : Option Nat) (cur : ThreadId) :
    Option Word :=
  if resolvesTarget (kindOf s.cfg inst.opcode) then targetAddr s inst addr hOpt cur else none

/-- The `src` of a Location for an answer of the resolver (R165). -/
def srcOfAnswer : ResolveAnswer → Option SrcInfo
  | .known src => some src
  | .unknown => none

/-- The Location of a target address, if there is one (R165): the address is always populated. -/
def State.locationOf (s : State) (t : Option Word) : Option Location :=
  t.map fun a => ⟨a, srcOfAnswer (s.resolveAnswer a)⟩

/-- The state after `locate`: one Resolve call if there is an address, none otherwise (R165). -/
def State.afterLocate (s : State) (t : Option Word) : State :=
  match t with
  | some a => s.afterResolve a
  | none => s

/-- CLASSIFY (R161). -/
def execClassify (inst : Instruction) (s : State) : Host.Outcome State Fault Refusal :=
  .next (s.ok (.kind (kindOf s.cfg inst.opcode)))

/-- RESOLVE_TARGET (R164). -/
def execResolveTarget (inst : Instruction) (addr : Word) (hOpt : Option Nat) (cur : ThreadId) (s : State) :
    Host.Outcome State Fault Refusal :=
  .next (if s.handleKnown hOpt then
      let t := targetToResolve s inst addr hOpt cur
      (s.afterLocate t).ok (.location (s.locationOf t))
    else s.raise .invalidHandle)

/-- DECODE_ONE (R166). -/
def execDecodeOne (bytes : List Byte) (addr : Word) (hOpt : Option Nat) (cur : ThreadId) (s : State) :
    Host.Outcome State Fault Refusal :=
  .next (if s.handleKnown hOpt then
      match decodeBytes s.cfg bytes with
      | .error e => s.raise (failureStatus e)
      | .ok (inst, r) =>
          let t := targetToResolve s inst addr hOpt cur
          (s.afterLocate t).ok (.decodedOne inst r (kindOf s.cfg inst.opcode) (s.locationOf t))
    else s.raise .invalidHandle)

/-- The prologue variants in the order they are tried (R168). -/
def prologueVariants (c : Cfg) : List (Nat × Option (List Opcode)) :=
  [(0, some tplTiny), (1, some tplSmall), (2, c.tplBig)]

/-- A variant matches when getG and the variant are the first opcodes (R167). -/
def variantMatches (ops : List Opcode) : Option (List Opcode) → Bool
  | none => false
  | some t => (tplGetG ++ t).isPrefixOf ops

/-- The index of the first matching variant (R167). -/
def matchVariant (c : Cfg) (ops : List Opcode) : Option Nat :=
  ((prologueVariants c).find? fun v => variantMatches ops v.2).map (·.1)

/-- MATCH_PROLOGUE (R167). -/
def execMatchPrologue (ops : List Opcode) (s : State) : Host.Outcome State Fault Refusal :=
  .next (s.ok (.prologue (matchVariant s.cfg ops).isSome (matchVariant s.cfg ops)))

end Sys2Proof.Machine
end

