-- ==== Sys2Proof/Machine/Engine.lean ====
section
/-! DEFINITION. The nine descriptor rows run by themselves (40_operands R112 to R122, 30_encoding R80; log 3): the
engine's result for the descriptor, the word and the accumulator goes to its output wire `slotOut`, and
nothing else changes. -/

namespace Sys2Proof.Machine

/-- The engine's output for the result of a slot function (R106): none is "no value" (R125). -/
def slotOutOf : Option SlotValue → SlotOut
  | none => .noValue
  | some v => .value v

/-- The state with an engine output. -/
def State.setSlotOut (s : State) (o : SlotOut) : State := { s with slotOut := o }

/-- Tag 0, `none` (30_encoding R80): the argument list ends, nothing is decoded; the word and the
accumulator are not read. -/
def execDescNone (_w : Word32) (_prev : Option SlotValue) (s : State) : Host.Outcome State Fault Refusal :=
  .next (s.setSlotOut .terminator)

/-- Tag 1, Integer (R112); the accumulator is not read. -/
def execInteger (d : IntegerDesc) (w : Word32) (prev : Option SlotValue) (s : State) :
    Host.Outcome State Fault Refusal :=
  .next (s.setSlotOut (slotOutOf (decodeSlot (.integer d) w prev)))

/-- Tag 2, MappedInteger (R113). -/
def execMappedInteger (d : MappedIntegerDesc) (w : Word32) (prev : Option SlotValue) (s : State) :
    Host.Outcome State Fault Refusal :=
  .next (s.setSlotOut (slotOutOf (decodeSlot (.mappedInteger d) w prev)))

/-- Tag 3, MostSignificantBit (R115). -/
def execMostSignificantBit (d : MsbDesc) (w : Word32) (prev : Option SlotValue) (s : State) :
    Host.Outcome State Fault Refusal :=
  .next (s.setSlotOut (slotOutOf (decodeSlot (.mostSignificantBit d) w prev)))

/-- Tag 4, Register (R116). -/
def execRegister (d : RegisterDesc) (w : Word32) (prev : Option SlotValue) (s : State) :
    Host.Outcome State Fault Refusal :=
  .next (s.setSlotOut (slotOutOf (decodeSlot (.register d) w prev)))

/-- Tag 5, OptionalRegister (R117). -/
def execOptionalRegister (d : RegisterDesc) (w : Word32) (prev : Option SlotValue) (s : State) :
    Host.Outcome State Fault Refusal :=
  .next (s.setSlotOut (slotOutOf (decodeSlot (.optionalRegister d) w prev)))

/-- Tag 6, RegisterPair (R118). -/
def execRegisterPair (d : PairDesc) (w : Word32) (prev : Option SlotValue) (s : State) :
    Host.Outcome State Fault Refusal :=
  .next (s.setSlotOut (slotOutOf (decodeSlot (.registerPair d) w prev)))

/-- Tag 7, PCRelative (R119). -/
def execPcRelative (d : PcRelDesc) (w : Word32) (prev : Option SlotValue) (s : State) :
    Host.Outcome State Fault Refusal :=
  .next (s.setSlotOut (slotOutOf (decodeSlot (.pcRelative d) w prev)))

/-- Tag 8, CheckAgainstPrevious (R122). -/
def execCheckAgainstPrevious (d : CheckDesc) (w : Word32) (prev : Option SlotValue) (s : State) :
    Host.Outcome State Fault Refusal :=
  .next (s.setSlotOut (slotOutOf (decodeSlot (.checkAgainstPrevious d) w prev)))

end Sys2Proof.Machine
end

