-- ==== Sys2Proof/Machine/Snapshots.lean ====
section
/-! DEFINITION. The register snapshot commands (42_snapshot R141 to R151). -/

namespace Sys2Proof.Machine

/-- The (name, value) pairs of every slot in `LIST_ORDER` (R142). -/
def slotList (c : Cfg) (f : RegFile) : List (String × RegValue) :=
  c.listOrder.map fun r => (regName c r, .word (readSlot f r))

/-- The (name, value) pairs of a loaded floating-point block (R142). -/
def fpList (c : Cfg) (b : FpBlock) : List (String × RegValue) :=
  (List.range c.numFpr).map fun k => (fpName c k, .fp (b.fregs.getD k 0))

/-- LOAD_SNAPSHOT (R141). -/
def execLoadSnapshot (tid : ThreadId) (s : State) : Host.Outcome State Fault Refusal :=
  .next (match s.readAnswer tid with
    | .err e => (s.afterRead tid).raise .registerTransportError (.cause (.transport e))
    | .ok bytes =>
        if bytes.length = s.cfg.gprBlockBytes then
          ((s.afterRead tid).alloc ⟨tid, gprParse s.cfg bytes, .pending, true⟩).ok (.handle s.next)
        else (s.afterRead tid).raise .registerTransportError (.cause .malformed))

/-- AS_REGISTER_LIST (R142). -/
def execAsRegisterList (includeFp : Bool) (h : Nat) (s : State) : Host.Outcome State Fault Refusal :=
  .next (s.withSnapshot h fun S =>
    if includeFp then
      match s.fpResult S with
      | .loaded b => (s.fpResolve h S).ok (.registers (slotList s.cfg S.reg ++ fpList s.cfg b) false)
      | .unavailable => (s.fpResolve h S).ok (.registers (slotList s.cfg S.reg) true)
      | .failed c => (s.fpResolve h S).raise .registerTransportError (.cause c)
    else s.ok (.registers (slotList s.cfg S.reg) false))

/-- PROGRAM_COUNTER (R144). -/
def execProgramCounter (h : Nat) (s : State) : Host.Outcome State Fault Refusal :=
  .next (s.withSnapshot h fun S => s.ok (.value (readSlot S.reg s.cfg.pcSlot)))

/-- STACK_POINTER (R145). -/
def execStackPointer (h : Nat) (s : State) : Host.Outcome State Fault Refusal :=
  .next (s.withSnapshot h fun S => s.ok (.value (readSlot S.reg s.cfg.spSlot)))

/-- FRAME_POINTER (R146). -/
def execFramePointer (h : Nat) (s : State) : Host.Outcome State Fault Refusal :=
  .next (s.withSnapshot h fun S => s.ok (.value (readSlot S.reg s.cfg.fpSlot)))

/-- GET (R147): general-purpose slots only. -/
def execGet (h : Nat) (idx : Word) (s : State) : Host.Outcome State Fault Refusal :=
  .next (s.withSnapshot h fun S =>
    if idx.toNat < s.cfg.numGpr then s.ok (.value (readSlot S.reg (.gpr idx.toNat)))
    else s.raise .unknownRegister)

/-- COPY (R148): the floating-point state is resolved first, and a failed one makes no copy. -/
def execCopy (h : Nat) (s : State) : Host.Outcome State Fault Refusal :=
  .next (s.withSnapshot h fun S =>
    match s.fpResult S with
    | .failed c => (s.fpResolve h S).raise .registerTransportError (.cause c)
    | .loaded b =>
        ((s.fpResolve h S).alloc ⟨S.tid, S.reg, .resolved (.loaded b), false⟩).ok (.handle s.next)
    | .unavailable =>
        ((s.fpResolve h S).alloc ⟨S.tid, S.reg, .resolved .unavailable, false⟩).ok (.handle s.next))

/-- SET_PC (R149). -/
def execSetPc (h : Nat) (v : Word) (s : State) : Host.Outcome State Fault Refusal :=
  .next (s.withSnapshot h fun S => s.writeBack h S .pc v)

/-- SET_SP (R150). -/
def execSetSp (h : Nat) (v : Word) (s : State) : Host.Outcome State Fault Refusal :=
  .next (s.withSnapshot h fun S => s.writeBack h S .sp v)

/-- SET_DX (R151): the block has no such register, so after the handle check it is unsupported; the
value is not read. -/
def execSetDx (h : Nat) (_v : Word) (s : State) : Host.Outcome State Fault Refusal :=
  .next (s.withSnapshot h fun _ => s.raise .unsupportedRegisterOperation)

end Sys2Proof.Machine
end

