-- ==== Sys2Proof/Machine/Dispatch.lean ====
section
/-! DEFINITION. One arm per row of spec/opcode_table.json: the fifteen commands, then the nine descriptor
tags. -/

namespace Sys2Proof.Machine

def exec (i : Instr) (s : State) : Host.Outcome State Fault Refusal :=
  match i with
  | .decode bytes => Sys2Proof.Machine.execDecode bytes s
  | .classify inst => Sys2Proof.Machine.execClassify inst s
  | .resolveTarget inst addr hOpt cur => Sys2Proof.Machine.execResolveTarget inst addr hOpt cur s
  | .decodeOne bytes addr hOpt cur => Sys2Proof.Machine.execDecodeOne bytes addr hOpt cur s
  | .matchPrologue ops => Sys2Proof.Machine.execMatchPrologue ops s
  | .loadSnapshot tid => Sys2Proof.Machine.execLoadSnapshot tid s
  | .asRegisterList includeFp h => Sys2Proof.Machine.execAsRegisterList includeFp h s
  | .programCounter h => Sys2Proof.Machine.execProgramCounter h s
  | .stackPointer h => Sys2Proof.Machine.execStackPointer h s
  | .framePointer h => Sys2Proof.Machine.execFramePointer h s
  | .get h idx => Sys2Proof.Machine.execGet h idx s
  | .copy h => Sys2Proof.Machine.execCopy h s
  | .setPc h v => Sys2Proof.Machine.execSetPc h v s
  | .setSp h v => Sys2Proof.Machine.execSetSp h v s
  | .setDx h v => Sys2Proof.Machine.execSetDx h v s
  | .descNone w prev => Sys2Proof.Machine.execDescNone w prev s
  | .integer d w prev => Sys2Proof.Machine.execInteger d w prev s
  | .mappedInteger d w prev => Sys2Proof.Machine.execMappedInteger d w prev s
  | .mostSignificantBit d w prev => Sys2Proof.Machine.execMostSignificantBit d w prev s
  | .register d w prev => Sys2Proof.Machine.execRegister d w prev s
  | .optionalRegister d w prev => Sys2Proof.Machine.execOptionalRegister d w prev s
  | .registerPair d w prev => Sys2Proof.Machine.execRegisterPair d w prev s
  | .pcRelative d w prev => Sys2Proof.Machine.execPcRelative d w prev s
  | .checkAgainstPrevious d w prev => Sys2Proof.Machine.execCheckAgainstPrevious d w prev s

end Sys2Proof.Machine
end

