-- ==== Sys2Proof/Machine/Step.lean ====
section
/-! DEFINITION. One step: the port takes its first pending event (20_memory R69, 60_exceptions R193). -/

namespace Sys2Proof.Machine

/-- With nothing pending the block is idle and keeps all its state (60 R196). A packet that is an
instruction is taken from the port and run; a header that selects no command is answered UnknownCommand
(60 R185); a reserved descriptor tag is refused. `Resume` is taken and has no response (60 R193). -/
def step (s : State) : Host.Outcome State Fault Refusal :=
  match s.pending with
  | [] => .next s
  | .resume tid :: _ => .next (s.popEvent.resumeThread tid)
  | .packet p :: _ =>
      match decodePacket p with
      | .ok i => exec i s.popEvent
      | .error .unknownCommand => .next s.popEvent.unknownCommand
      | .error (.reservedTag t) => .refused (.reservedTag t)

/-- The state with a table row's bits, every operand zero, presented at the port before everything that
waits there, so that the next step takes it (log 9). -/
def State.withFetchWord (s : State) (nbits w : Nat) : State :=
  { s with pending := .packet (tablePacket nbits w) :: s.pending }

end Sys2Proof.Machine
end

