-- ==== Sys2Proof/Machine/Boot.lean ====
section
/-! DEFINITION. Building the block with a configuration and resetting it (70_reset_and_hazards R200, R201). -/

namespace Sys2Proof.Machine

/-- A configuration that fails a check is refused by the check's name and gives no block; any other gives a
block in its reset state (R200, R197). -/
def boot (c : Cfg) : Host.Outcome State Fault Refusal :=
  match cfgFailed c with
  | some failure => .refused (.illFormedConfig failure)
  | none => .next (State.resetWith c)

end Sys2Proof.Machine
end

