-- ==== Sys2Proof/Safety.lean ====
section
/-! DEFINITION. The invariants of the block and what an observer sees, in the terms statements use. -/

namespace Sys2Proof.Safety

open Sys2Proof.Machine

/-- The store holds exactly the handles below `next`, in order (10_state R26). -/
def HandlesSequential (s : State) : Prop := s.store.map (·.1) = List.range s.next

/-- A register file has a value for every slot of the configuration (10_state R29). -/
def RegShape (c : Cfg) (f : RegFile) : Prop :=
  f.gpr.length = c.numGpr ∧ f.special.length = c.numSpecial

/-- Every snapshot's register file has the configuration's shape. -/
def RegistersShaped (s : State) : Prop := ∀ hS ∈ s.store, RegShape s.cfg hS.2.reg

/-- A loaded floating-point block has the configuration's sizes (10_state R38). -/
def FpShape (c : Cfg) : FpState → Prop
  | .resolved (.loaded b) =>
      b.fregs.length = c.numFpr ∧ b.raw.length = c.fpRawBytes ∧ ∀ x ∈ b.fregs, x < 2 ^ c.fpBits
  | _ => True

/-- Every loaded floating-point block has the configuration's sizes. -/
def FpShaped (s : State) : Prop := ∀ hS ∈ s.store, FpShape s.cfg hS.2.fp

/-- No owned snapshot has a pending loader (42_snapshot R154, 10_state R46). -/
def OwnedResolved (s : State) : Prop := ∀ hS ∈ s.store, hS.2.live = false → hS.2.fp ≠ .pending

/-- A trace entry is a `TReadFp` of the thread. -/
def isReadFpOf (tid : ThreadId) : TransportCall → Bool
  | .readFp t _ => t == tid
  | .read _ _ => false
  | .write _ _ _ => false

/-- A live snapshot of the thread whose loader has been invoked. -/
def loaderInvoked (tid : ThreadId) (S : Snapshot) : Bool := S.tid == tid && S.live && S.fp != .pending

/-- For each thread the trace holds as many `TReadFp`s as the thread has live snapshots whose loader has been
invoked (10_state R40, 42_snapshot R154); an owned snapshot adds none. -/
def FpReadsAtMostOnce (s : State) : Prop :=
  ∀ tid, s.trace.countP (isReadFpOf tid) = s.store.countP (fun hS => loaderInvoked tid hS.2)

/-- No response has the status FloatingPointUnavailable (60_exceptions R184). -/
def NoUnavailableStatus (s : State) : Prop :=
  ∀ r ∈ s.responses, r.status ≠ .floatingPointUnavailable

/-- The invariant of the block: its configuration passes the build checks, and all of the above. -/
structure Inv (s : State) : Prop where
  cfg_wf : cfgWf s.cfg = true
  handles : HandlesSequential s
  registers : RegistersShaped s
  fp : FpShaped s
  owned : OwnedResolved s
  fpReads : FpReadsAtMostOnce s
  statuses : NoUnavailableStatus s

/-- The handles' keys rise strictly: the canonical form of the store (log 7). -/
def StoreSorted (st : Store) : Prop := (st.map (·.1)).Pairwise (· < ·)

/-- The register block layout can be parsed back (20_memory R65), for register files of the right shape. -/
def LayoutLawful (c : Cfg) : Prop :=
  ∀ f, RegShape c f → gprParse c (gprSerialize c f) = f

/-- The instructions that write neither the store nor the trace (10_state R33): every command but
LOAD_SNAPSHOT, AS_REGISTER_LIST with `includeFP`, COPY, SET_PC and SET_SP, and every descriptor. -/
def writesNoState : Instr → Bool
  | .loadSnapshot _ => false
  | .asRegisterList includeFp _ => !includeFp
  | .copy _ => false
  | .setPc _ _ => false
  | .setSp _ _ => false
  | .decode _ => true
  | .classify _ => true
  | .resolveTarget _ _ _ _ => true
  | .decodeOne _ _ _ _ => true
  | .matchPrologue _ => true
  | .programCounter _ => true
  | .stackPointer _ => true
  | .framePointer _ => true
  | .get _ _ => true
  | .setDx _ _ => true
  | .descNone _ _ => true
  | .integer _ _ _ => true
  | .mappedInteger _ _ _ => true
  | .mostSignificantBit _ _ _ => true
  | .register _ _ _ => true
  | .optionalRegister _ _ _ => true
  | .registerPair _ _ _ => true
  | .pcRelative _ _ _ => true
  | .checkAgainstPrevious _ _ _ => true

/-- The commands that read one snapshot and give its registers (42_snapshot R155). -/
def accessorsOf (h : Nat) : List Instr :=
  [.programCounter h, .stackPointer h, .framePointer h, .asRegisterList false h, .asRegisterList true h]

/-- A stored descriptor passes the checks of 30_encoding R83, read off its tag and fields. Width 0 is checked by
kind, with or without a remap (DESIGN CHOICE, log 18). -/
structure DescriptorPasses (raw : RawDesc) : Prop where
  tag : raw.tag.toNat ≤ 8
  field : raw.tag ≠ 0 → raw.fields.lsb + raw.fields.width ≤ 32
  width0 : raw.tag = 1 ∨ raw.tag = 3 ∨ raw.tag = 7 ∨ raw.tag = 8 → raw.fields.width ≠ 0
  shift : raw.tag = 1 ∨ raw.tag = 7 → raw.fields.shift ≤ 63
  align : raw.tag = 7 → raw.fields.alignLog2 ≤ 63
  map : raw.tag = 2 → ∀ kv ∈ raw.fields.map, kv.1 < 2 ^ raw.fields.width
  remap : raw.tag = 4 ∨ raw.tag = 5 →
    ∀ m, raw.fields.remap = some m → ∀ kv ∈ m, kv.1 < 2 ^ raw.fields.width
  maps : raw.tag = 6 → ∀ kv ∈ raw.fields.map1 ++ raw.fields.map2, kv.1 < 2 ^ raw.fields.width
  msb : raw.tag = 3 → 1 ≤ raw.fields.maxSize ∧ raw.fields.maxSize ≤ 64
  check : raw.tag = 8 → ¬ (raw.fields.gt = true ∧ raw.fields.lt = true) ∧
    ¬ (raw.fields.gt = true ∧ raw.fields.eq = true) ∧ ¬ (raw.fields.lt = true ∧ raw.fields.eq = true)

/-- A row passes the checks of 30_encoding R79, R83 and 92_eei_decisions D14. -/
structure RowPasses (row : Row) : Prop where
  value : row.value &&& ~~~row.mask = 0
  descriptors : ∀ raw ∈ row.args.toList, DescriptorPasses raw
  terminator : ∀ (j k : Nat) (x y : RawDesc),
    row.args[j]? = some x → row.args[k]? = some y → j < k → x.tag = 0 → y.tag = 0

/-- The register block has a layout that can be parsed back, by its form (20_memory R65; log 8). -/
def LayoutPasses (c : Cfg) : Prop :=
  match c.gprLayout with
  | .uninterpreted _ => 8 * (c.numGpr + c.numSpecial) ≤ c.gprBlockBytes
  | .positions slots _ =>
      (∀ r, hasSlot c r = true → (slotPositions slots r).length = 8 ∧
        ∀ p ∈ slotPositions slots r, p < c.gprBlockBytes) ∧
      (∀ r, hasSlot c r = true → (slotPositions slots r).Nodup) ∧
      ∀ q r, hasSlot c q = true → hasSlot c r = true → q ≠ r →
        ∀ p ∈ slotPositions slots q, p ∉ slotPositions slots r

/-- A configuration passes every check of 70_reset_and_hazards R200, as the rules word them. -/
structure ConfigurationPasses (c : Cfg) : Prop where
  rows : ∀ row ∈ c.table, RowPasses row
  special : 1 ≤ c.numSpecial
  fixedSlots : hasSlot c c.pcSlot = true ∧ hasSlot c c.spSlot = true ∧ hasSlot c c.fpSlot = true
  distinct : c.pcSlot ≠ c.spSlot ∧ c.pcSlot ≠ c.fpSlot ∧ c.spSlot ≠ c.fpSlot
  listOrder : ∀ r, c.listOrder.count r = if hasSlot c r then 1 else 0
  template : c.tplBig ≠ some []
  layout : LayoutPasses c

/-- The row of the table is reachable (30_encoding R81): some word decodes to its opcode. An obligation on
the table, which the block does not check (70_reset_and_hazards R207). -/
def TableReachable (c : Cfg) : Prop :=
  ∀ row ∈ c.table, ∃ w inst r, searchRows w 0 c.table = some (inst, r) ∧ inst.opcode = row.opcode

/-- Running the entries of an argument list one descriptor instruction at a time through `exec`, reading the
engine's output wire after each and passing it on as the accumulator: the refinement of `decodeArgs` that
40_operands R124 and 41_decoder R134 describe. -/
def runEntries (w : Word32) : Option SlotValue → List ArgEntry → State → Option (List SlotValue)
  | _, [], _ => some []
  | prev, e :: rest, s =>
      match exec (entryInstr e w prev) s with
      | .next t =>
          match t.slotOut with
          | .value v => (runEntries w (some v) rest t).map (v :: ·)
          | .terminator => some []
          | .noValue => none
          | .idle => none
      | .fault _ => none
      | .refused _ => none

end Sys2Proof.Safety
end

