-- ==== Sys2Proof/Certificates/Slice0/Obligations.lean ====
section
/-! DEFINITION. The statements for the provers. Each docstring names the rule it formalises; "the spec's own
decision Dn" marks a rule that spec/92_eei_decisions.md lists as its writer's choice, and "log n" a
convention of the model. -/

open Sys2Proof Sys2Proof.Machine Sys2Proof.Safety

/-! ## The port and the encodings -/

/-- 20_memory R69: the port takes the oldest packet and runs exactly the instruction it decodes to, on the
state with that packet taken from the port. -/
def Obligations.StepRunsDecodedPacket : Prop :=
  ∀ (s : State) (p : Packet) (rest : List Event) (i : Instr),
    s.pending = .packet p :: rest → decodePacket p = .ok i →
    step s = exec i { s with pending := rest }

/-- 60_exceptions R185, R196 (the spec's own decisions D1, D2, D44): with nothing presented the block is idle
and keeps all its state; a header that selects no command is answered UnknownCommand, whatever its operands,
and nothing but the response changes. -/
def Obligations.IdleAndUnknownHeaderSteps : Prop :=
  (∀ s : State, s.pending = [] → step s = .next s) ∧
  (∀ (s : State) (header : Word32) (o : Operands) (rest : List Event),
    s.pending = .packet (.command header o) :: rest → selectCommand header = none →
    step s = .next ({ s with pending := rest }.raise .unknownCommand .none))

/-- 30_encoding R90, R92, R95 (the spec's own decisions D2, D44): a header selects a command exactly when
its code byte is the command's, its reserved half is zero and its flags byte is zero, or has bit 0 only (header
bit 8) for AS_REGISTER_LIST; and at most one command's mask and match fit a header. -/
def Obligations.HeaderSelectsByCodeAndFlags : Prop :=
  (∀ (header : Word32) (c : Command),
    selectCommand header = some c ↔
      headerCode header = c.code ∧ headerReserved header = 0 ∧
        (headerFlags header = 0 ∨ (c = .asRegisterList ∧ headerFlags header = 1))) ∧
  (∀ (header : Word32) (c d : Command),
    header &&& c.maskBits = c.matchBits → header &&& d.maskBits = d.matchBits → c = d)

/-- 30_encoding R82, R91 (the spec's own encodings, decision D2): decoding an encoded instruction gives it
back, for all 24 rows and every operand. -/
def Obligations.DecodeInvertsEncode : Prop :=
  ∀ i : Instr, decodePacket (encode i) = .ok i

/-- 30_encoding R91, R82, and vectors H-1 to H-12 of 95_test_vectors: some headers and tags, as written in
the spec, decode to their commands and kinds, and some are rejected. -/
def Obligations.SpecWordsDecode : Prop :=
  decodeTableWord 32 0x00000001 = some (.decode []) ∧
  decodeTableWord 32 0x00000005 = some (.matchPrologue []) ∧
  decodeTableWord 32 0x00000011 = some (.asRegisterList false 0) ∧
  decodeTableWord 32 0x00000111 = some (.asRegisterList true 0) ∧
  decodeTableWord 32 0x00000019 = some (.setDx 0 0) ∧
  decodeTableWord 8 0x0 = some (.descNone 0 none) ∧
  decodeTableWord 8 0x8 = some (.checkAgainstPrevious ⟨0, 0, false, false, false, false⟩ 0 none) ∧
  decodeTableWord 32 0x0000001A = none ∧ decodeTableWord 32 0x00010001 = none ∧
  decodeTableWord 32 0x00000311 = none ∧ decodeTableWord 8 0x9 = none

/-! ## The decoder -/

/-- 41_decoder R131: DECODE's header is 0x00000001; it responds with what `decode(bytes)` gives, an instruction
and the winning row, or TruncatedInput for fewer than four bytes, or UnknownEncoding when every row rejects the
word, and writes nothing but its response. -/
def Obligations.DecodeRespondsWithDecodeFunction : Prop :=
  ∀ (bytes : List Byte) (s : State),
    encode (.decode bytes) = .command 0x00000001 { bytes := bytes } ∧
    (∀ inst r, decodeBytes s.cfg bytes = .ok (inst, r) →
      exec (.decode bytes) s = .next (s.ok (.decoded inst r))) ∧
    (bytes.length < 4 → exec (.decode bytes) s = .next (s.raise .truncatedInput .none)) ∧
    (∀ w, assembleWord s.cfg.byteOrder bytes = some w → (∀ row ∈ s.cfg.table, tryRow row w = none) →
      exec (.decode bytes) s = .next (s.raise .unknownEncoding .none)) ∧
    ((∃ inst r, decodeBytes s.cfg bytes = .ok (inst, r)) ∨ bytes.length < 4 ∨
      ∃ w, assembleWord s.cfg.byteOrder bytes = some w ∧ ∀ row ∈ s.cfg.table, tryRow row w = none)

/-- 60_exceptions R179: DECODE raises TruncatedInput exactly for fewer than four bytes, and DECODE_ONE for
fewer than four bytes with a handle operand that is absent or known; no payload, nothing else changed. -/
def Obligations.TruncatedInputBelowFourBytes : Prop :=
  ∀ (bytes : List Byte) (addr : Word) (hOpt : Option Nat) (cur : ThreadId) (s : State),
    (decodeBytes s.cfg bytes = .error .truncatedInput ↔ bytes.length < 4) ∧
    (bytes.length < 4 → exec (.decode bytes) s = .next (s.raise .truncatedInput .none)) ∧
    (bytes.length < 4 → s.handleKnown hOpt = true →
      exec (.decodeOne bytes addr hOpt cur) s = .next (s.raise .truncatedInput .none))

/-- 41_decoder R136, 60_exceptions R180: four bytes or more form a word, and the decode result is UnknownEncoding
exactly when every row of the table rejects it, TruncatedInput exactly below four bytes; an empty table rejects
every word; DECODE, and DECODE_ONE with a handle operand that is absent or known, then raise UnknownEncoding with
no payload and change nothing else. -/
def Obligations.UnknownEncodingWhenEveryRowRejects : Prop :=
  (∀ (c : Cfg) (bytes : List Byte), 4 ≤ bytes.length → ∃ w, assembleWord c.byteOrder bytes = some w ∧
    (decodeBytes c bytes = .error .unknownEncoding ↔ ∀ row ∈ c.table, tryRow row w = none)) ∧
  (∀ (c : Cfg) (bytes : List Byte), decodeBytes c bytes = .error .truncatedInput ↔ bytes.length < 4) ∧
  (∀ (c : Cfg) (bytes : List Byte), c.table = [] → 4 ≤ bytes.length →
    decodeBytes c bytes = .error .unknownEncoding) ∧
  (∀ (bytes : List Byte) (addr : Word) (hOpt : Option Nat) (cur : ThreadId) (s : State) (w : Word32),
    assembleWord s.cfg.byteOrder bytes = some w → (∀ row ∈ s.cfg.table, tryRow row w = none) →
    exec (.decode bytes) s = .next (s.raise .unknownEncoding .none) ∧
    (s.handleKnown hOpt = true →
      exec (.decodeOne bytes addr hOpt cur) s = .next (s.raise .unknownEncoding .none)))

/-- 41_decoder R135: the row reported is the first, in table order, that decodes the word; the result has that
row's opcode and its decoded slots, those past the last one decoded Empty, the raw word, and size 4. -/
def Obligations.FirstDecodingRowWins : Prop :=
  (∀ (c : Cfg) (bytes : List Byte) (inst : Instruction) (r : Nat),
    decodeBytes c bytes = .ok (inst, r) ↔
      ∃ w row, assembleWord c.byteOrder bytes = some w ∧ c.table[r]? = some row ∧
        tryRow row w = some inst ∧
        ∀ k row', k < r → c.table[k]? = some row' → tryRow row' w = none) ∧
  (∀ (row : Row) (w : Word32) (inst : Instruction), tryRow row w = some inst →
    inst.opcode = row.opcode ∧ inst.enc = w ∧ inst.size = 4 ∧
      ∃ l, decodeArgs w none row.args.toList = some l ∧ l.length ≤ 5 ∧
        ∀ k, k < 5 → inst.args[k]? = some (l.getD k .empty))

/-- 41_decoder R133, with R135's annotation: a row decodes a word exactly when the masked word equals its
value, its predicate, if it has one, is true of the word, and its descriptors decode; the result has the row's
opcode, the decoded slots, the raw word and size 4. -/
def Obligations.RowTriedInThreeSteps : Prop :=
  ∀ (row : Row) (w : Word32) (inst : Instruction),
    tryRow row w = some inst ↔
      w &&& row.mask = row.value ∧ (∀ p, row.pred = some p → evalPred w p = true) ∧
        ∃ slots, decodeRow row w = some slots ∧ inst = ⟨row.opcode, slots, w, 4⟩

/-- 20_memory R54, R56 (the spec's own decisions D4, D5): the word of four bytes, as a number, under each
byte order; the bytes after the fourth are ignored. -/
def Obligations.FirstFourBytesFormWord : Prop :=
  (∀ (b0 b1 b2 b3 : Byte) (extra : List Byte),
    (∃ w, assembleWord .little (b0 :: b1 :: b2 :: b3 :: extra) = some w ∧ w.toNat =
      b0.toNat + 2 ^ 8 * b1.toNat + 2 ^ 16 * b2.toNat + 2 ^ 24 * b3.toNat) ∧
    (∃ w, assembleWord .big (b0 :: b1 :: b2 :: b3 :: extra) = some w ∧ w.toNat =
      b3.toNat + 2 ^ 8 * b2.toNat + 2 ^ 16 * b1.toNat + 2 ^ 24 * b0.toNat)) ∧
  (∀ (c : Cfg) (bytes extra : List Byte), 4 ≤ bytes.length →
    decodeBytes c (bytes ++ extra) = decodeBytes c bytes)

/-! ## The operand descriptor engine -/

/-- 40_operands R112, R119 (the spec's own decision D15 for the PCRelative slot): an Integer descriptor always
gives `Int(intDecode(…))` of its field, and a PCRelative descriptor always gives its offset, decoded like an
Integer, with its resolution parameters. -/
def Obligations.IntegerAndPcRelativeAlwaysGive : Prop :=
  ∀ (d : IntegerDesc) (p : PcRelDesc) (w : Word32) (prev : Option SlotValue) (s : State),
    exec (.integer d w prev) s = .next { s with
      slotOut := .value (.int (intDecode d.maxVal d.bias d.shift d.width (extract w d.lsb d.width))) } ∧
    exec (.pcRelative p w prev) s = .next { s with
      slotOut := .value (.pcRel
        (intDecode p.maxVal p.bias p.shift p.width (extract w p.lsb p.width))
        p.alignLog2 p.includeIsa p.flipIsa) }

/-- 40_operands R113 (run by itself: log 3): a MappedInteger descriptor, tag 2, gives its map's entry modulo 2^64,
and no value where the map has none. A row that holds such a descriptor without an entry, at any position before
its terminator, does not decode, and the decoder goes on to the next row. -/
def Obligations.MappedIntegerLooksUp : Prop :=
  ∀ (d : MappedIntegerDesc) (w : Word32) (prev : Option SlotValue) (s : State),
    encodeEntry (.kind (.mappedInteger d)) = ⟨2, { lsb := d.lsb, width := d.width, map := d.map }⟩ ∧
    (∀ y : Int, d.map.lookup (extract w d.lsb d.width) = some y →
      exec (.mappedInteger d w prev) s =
        .next { s with slotOut := .value (.int (BitVec.ofInt 64 y)) }) ∧
    (d.map.lookup (extract w d.lsb d.width) = none →
      exec (.mappedInteger d w prev) s = .next { s with slotOut := .noValue } ∧
      ∀ (row : Row) (front back : List RawDesc),
        row.args.toList = front ++ encodeEntry (.kind (.mappedInteger d)) :: back →
        (∀ raw ∈ front, raw.tag ≠ 0) →
        tryRow row w = none ∧
          ∀ (r : Nat) (rest : List Row), searchRows w r (row :: rest) = searchRows w (r + 1) rest)

/-- 40_operands R115 (the spec's own decisions D10, D11): a MostSignificantBit descriptor after an Int `l`
gives the position `(addLsb ? l : 0) + field + bias`, and no value when the bitfield is empty, starts below
bit 0 or reaches bit `maxSize`; after anything else it gives no value. -/
def Obligations.MostSignificantBitGivesPosition : Prop :=
  ∀ (d : MsbDesc) (w : Word32) (s : State),
    (∀ (l : Word) (msb : Int),
      msb = (if d.addLsb then l.toInt else 0) + (extract w d.lsb d.width : Int) + d.bias →
      ((l.toInt ≤ msb ∧ 0 ≤ l.toInt ∧ msb < d.maxSize →
        exec (.mostSignificantBit d w (some (.int l))) s =
          .next { s with slotOut := .value (.int (BitVec.ofInt 64 msb)) }) ∧
       (¬ (l.toInt ≤ msb ∧ 0 ≤ l.toInt ∧ msb < d.maxSize) →
        exec (.mostSignificantBit d w (some (.int l))) s = .next { s with slotOut := .noValue }))) ∧
    (∀ prev : Option SlotValue, (∀ l, prev ≠ some (.int l)) →
      exec (.mostSignificantBit d w prev) s = .next { s with slotOut := .noValue })

/-- 40_operands R116 (the spec's own decision D8 for a missing entry): a Register descriptor names the field,
or its remap's entry, and gives no value where the remap has none. -/
def Obligations.RegisterNamesFieldOrRemap : Prop :=
  ∀ (d : RegisterDesc) (w : Word32) (prev : Option SlotValue) (s : State),
    (d.remap = none → exec (.register d w prev) s =
      .next { s with slotOut := .value (.reg ⟨d.cls, extract w d.lsb d.width⟩) }) ∧
    (∀ m k, d.remap = some m → m.lookup (extract w d.lsb d.width) = some k →
      exec (.register d w prev) s = .next { s with slotOut := .value (.reg ⟨d.cls, k⟩) }) ∧
    (∀ m, d.remap = some m → m.lookup (extract w d.lsb d.width) = none →
      exec (.register d w prev) s = .next { s with slotOut := .noValue })

/-- 40_operands R117 (the spec's own decision D19): an OptionalRegister descriptor gives the Register
descriptor's identifier, elidable exactly when the preceding slot is Reg or OptReg of the same identifier, and
gives no value exactly when the Register descriptor does. -/
def Obligations.OptionalRegisterElidable : Prop :=
  ∀ (d : RegisterDesc) (w : Word32) (prev : Option SlotValue) (s : State),
    (∀ id, slotRegister d w = some (.reg id) →
      ∃ e : Bool, exec (.optionalRegister d w prev) s = .next { s with slotOut := .value (.optReg id e) } ∧
        (e = true ↔ prev = some (.reg id) ∨ ∃ b, prev = some (.optReg id b))) ∧
    (slotRegister d w = none →
      exec (.optionalRegister d w prev) s = .next { s with slotOut := .noValue })

/-- 40_operands R118 (the spec's own decision D9 for a missing entry): a RegisterPair descriptor gives the
two maps' entries in its class, and no value when either map lacks the field. -/
def Obligations.RegisterPairLooksUpBothMaps : Prop :=
  ∀ (d : PairDesc) (w : Word32) (prev : Option SlotValue) (s : State),
    (∀ a b, d.map1.lookup (extract w d.lsb d.width) = some a →
      d.map2.lookup (extract w d.lsb d.width) = some b →
      exec (.registerPair d w prev) s = .next { s with slotOut := .value (.pair ⟨d.cls, a⟩ ⟨d.cls, b⟩) }) ∧
    (d.map1.lookup (extract w d.lsb d.width) = none ∨ d.map2.lookup (extract w d.lsb d.width) = none →
      exec (.registerPair d w prev) s = .next { s with slotOut := .noValue })

/-- 40_operands R122 (the spec's own decision D12): with `p` the preceding integer read signed or the
preceding register's number, a CheckAgainstPrevious descriptor records Empty exactly when every set gate holds
of the field, and gives no value otherwise; after any other slot it gives no value. -/
def Obligations.CheckGatesAreAnded : Prop :=
  ∀ (d : CheckDesc) (w : Word32) (s : State),
    (∀ (prev : Option SlotValue) (p : Int),
      (∃ x : Word, prev = some (.int x) ∧ p = x.toInt) ∨ (∃ id, prev = some (.reg id) ∧ p = id.num) ∨
        (∃ id b, prev = some (.optReg id b) ∧ p = id.num) →
      (((d.gt = true → (extract w d.lsb d.width : Int) > p) ∧
        (d.lt = true → (extract w d.lsb d.width : Int) < p) ∧
        (d.eq = true → (extract w d.lsb d.width : Int) = p) ∧
        (d.zero = true → extract w d.lsb d.width = 0)) →
        exec (.checkAgainstPrevious d w prev) s = .next { s with slotOut := .value .empty }) ∧
      (¬ ((d.gt = true → (extract w d.lsb d.width : Int) > p) ∧
        (d.lt = true → (extract w d.lsb d.width : Int) < p) ∧
        (d.eq = true → (extract w d.lsb d.width : Int) = p) ∧
        (d.zero = true → extract w d.lsb d.width = 0)) →
        exec (.checkAgainstPrevious d w prev) s = .next { s with slotOut := .noValue })) ∧
    (∀ prev : Option SlotValue, prev = none ∨ prev = some .empty ∨ (∃ a b, prev = some (.pair a b)) ∨
        (∃ off a i f, prev = some (.pcRel off a i f)) →
      exec (.checkAgainstPrevious d w prev) s = .next { s with slotOut := .noValue })

/-- 30_encoding R80 (the spec's own decision D14; log 3): the descriptor `none` ends the list: run by itself
it makes the engine report the terminator and changes nothing else, and in an argument list whatever stands
after it is ignored. -/
def Obligations.TerminatorEndsTheList : Prop :=
  (∀ (w : Word32) (prev : Option SlotValue) (s : State),
    exec (.descNone w prev) s = .next { s with slotOut := .terminator }) ∧
  (∀ (w : Word32) (prev : Option SlotValue) (front back : List RawDesc) (f : DescFields),
    decodeArgs w prev (front ++ ⟨0, f⟩ :: back) = decodeArgs w prev (front ++ [⟨0, f⟩]))

/-- 41_decoder R134, 40_operands R124: decoding a row's argument list is running its entries one by one as
descriptor instructions through `exec`, from any state, each value passed on as the next one's accumulator,
stopping at the terminator and failing at the first entry without a value. -/
def Obligations.RowDecodingRunsDescriptorsInOrder : Prop :=
  ∀ (w : Word32) (prev : Option SlotValue) (raws : List RawDesc) (entries : List ArgEntry) (s : State),
    raws.mapM decodeEntry = some entries →
    decodeArgs w prev raws = runEntries w prev entries s

/-- 40_operands R109 (derived in the spec): for `-1 <= maxVal <= 2^width - 1`, a field below 2^width decodes
to the field itself when it is at most `maxVal` and to the field minus 2^width otherwise, plus `bias`, times
2^shift, whenever that integer fits 64 signed bits. -/
def Obligations.IntDecodeClosedForm : Prop :=
  ∀ (maxVal bias : Int) (shift width v : Nat), width ≤ 32 → v < 2 ^ width →
    -1 ≤ maxVal → maxVal ≤ 2 ^ width - 1 →
    ∀ x : Int, x = ((if (v : Int) ≤ maxVal then (v : Int) else (v : Int) - 2 ^ width) + bias) * 2 ^ shift →
      -(2 ^ 63) ≤ x → x ≤ 2 ^ 63 - 1 → (intDecode maxVal bias shift width v).toInt = x

/-- 40_operands R110 (the spec's own decision D7): for a descriptor that passes the build checks, with
`-1 <= maxVal <= 2^width - 1` and no overflow, the closed forms of `min` and `max` are the least and the
greatest decoded value. -/
def Obligations.IntegerBoundsAreAttained : Prop :=
  ∀ d : IntegerDesc, (Desc.integer d).wf = true → intRegular d = true → intNoOverflow d = true →
    intMin d = intLeast d ∧ intMax d = intGreatest d ∧ intMin d ≤ intMax d

/-- 40_operands R111 (derived in the spec), restricted to descriptors none of whose values overflows 64 bits:
decoding an encoded value gives it back, and exactly the multiples of 2^shift in [min, max] have an
encoding. -/
def Obligations.IntegerRoundTrip : Prop :=
  ∀ (d : IntegerDesc) (x : Int), (Desc.integer d).wf = true → intRegular d = true → intNoOverflow d = true →
    (∀ v, intEncode d x = some v → v < 2 ^ d.width ∧ intValueAt d v = x) ∧
    ((∃ v, intEncode d x = some v) ↔ intMin d ≤ x ∧ x ≤ intMax d ∧ x % 2 ^ d.shift = 0)

/-- 40_operands R111 read to the letter, without the no-overflow condition: expected to FAIL. With width 1,
`maxVal` 1, `bias` 3 and `shift` 61 the greatest field overflows, 0 lies in [min, max] and is a multiple of
2^61, and its encoding decodes to -2^63 (log 10). -/
def Obligations.IntegerRoundTripDespiteOverflow : Prop :=
  ∀ (d : IntegerDesc) (x : Int) (v : Nat), (Desc.integer d).wf = true → intRegular d = true →
    intEncode d x = some v → intValueAt d v = x

/-- 40_operands R105, 00_scope R13: insert is R105's formula; inserting ORs the masked value into the field,
disturbs no bit outside it, and changes nothing when the width is 0; extract is R13's formula, below 2^width. -/
def Obligations.InsertOrsIntoField : Prop :=
  ∀ (w : Word32) (lsb width val : Nat),
    (insertField w lsb width val).toNat = (w.toNat ||| (val % 2 ^ width) * 2 ^ lsb) % 2 ^ 32 ∧
    extract w lsb width = w.toNat / 2 ^ lsb % 2 ^ width ∧ extract w lsb width < 2 ^ width ∧
    insertField w lsb 0 val = w ∧
    (lsb + width ≤ 32 →
      extract (insertField w lsb width val) lsb width = extract w lsb width ||| val % 2 ^ width ∧
      ∀ i, i < lsb ∨ lsb + width ≤ i → (insertField w lsb width val).getLsbD i = w.getLsbD i)

/-- 40_operands R120, R121 (the spec's own decision D17): a PC-relative target is the base with its low
`alignLog2` bits cleared plus the offset, modulo 2^64; with `includeIsa` its bit 0 is the base's, flipped when
`flipIsa` is set, and the other bits are unchanged; without `includeIsa`, `flipIsa` has no effect. -/
def Obligations.PcRelativeTargetArithmetic : Prop :=
  ∀ (base off : Word) (a : Nat) (flip : Bool), a ≤ 63 →
    (pcrelTarget base off a false flip).toNat =
      (base.toNat - base.toNat % 2 ^ a + off.toNat) % 2 ^ 64 ∧
    (pcrelTarget base off a true flip).getLsbD 0 = (base.getLsbD 0 ^^ flip) ∧
    (∀ i, 1 ≤ i → (pcrelTarget base off a true flip).getLsbD i =
      (pcrelTarget base off a false flip).getLsbD i)

/-- 30_encoding R96 (the spec's own decision D50): the rendered operand list is the instruction's slots, in order
and as often as they stand there, without those that are Empty or an elidable OptReg. -/
def Obligations.RenderedOperandsLeaveOutElidable : Prop :=
  ∀ (i : Instruction),
    renderedOperands i = i.args.toList.filter (fun v =>
      v != .empty && (match v with | .optReg _ elidable => !elidable | _ => true)) ∧
    (∀ v, v ≠ .empty → (∀ id, v ≠ .optReg id true) → (renderedOperands i).count v = i.args.toList.count v) ∧
    (∀ v, (v = .empty ∨ ∃ id, v = .optReg id true) → v ∉ renderedOperands i)

/-! ## The classifier -/

/-- 43_classifier R161 (the spec's own decision D31): CLASSIFY responds with the kind of the opcode, Other
where the map has no entry, and writes nothing but its response. -/
def Obligations.ClassifyRespondsWithKind : Prop :=
  ∀ (inst : Instruction) (s : State),
    (∀ k, s.cfg.kinds.lookup inst.opcode = some k →
      exec (.classify inst) s = .next (s.ok (.kind k))) ∧
    (s.cfg.kinds.lookup inst.opcode = none → exec (.classify inst) s = .next (s.ok (.kind .other)))

/-- 43_classifier R162 (the spec's own decision D32): unless the configuration overrides the parameter for
the opcode, the target slot is the highest-indexed slot that is not Empty, and there is none exactly when every
slot is Empty. -/
def Obligations.TargetSlotIsLastNonEmpty : Prop :=
  ∀ (c : Cfg) (inst : Instruction), c.targetSlots.lookup inst.opcode = none →
    (∀ k, targetSlot c inst = some k ↔
      k < 5 ∧ inst.args[k]? ≠ some .empty ∧ ∀ j, k < j → j < 5 → inst.args[j]? = some .empty) ∧
    (targetSlot c inst = none ↔ ∀ j, j < 5 → inst.args[j]? = some .empty)

/-- 43_classifier R163 (the spec's own decisions D33, D34, D35): the target address by the form of the target
slot's value. -/
def Obligations.TargetAddressByForm : Prop :=
  ∀ (s : State) (inst : Instruction) (addr : Word) (hOpt : Option Nat) (cur : ThreadId) (k : Nat)
    (v : SlotValue), targetSlot s.cfg inst = some k → inst.args[k]? = some v →
    (∀ x, v = .int x → targetAddr s inst addr hOpt cur = some x) ∧
    (∀ off a i f, v = .pcRel off a i f →
      targetAddr s inst addr hOpt cur = some (pcrelTarget (addr + s.cfg.pcrelBaseOffset) off a i f)) ∧
    (∀ id, (v = .reg id ∨ ∃ b, v = .optReg id b) →
      (∀ h S, hOpt = some h → s.snapshot h = some S → S.tid = cur → id.cls = .gpr → id.num < s.cfg.numGpr →
        targetAddr s inst addr hOpt cur = some (readSlot S.reg (.gpr id.num))) ∧
      ((hOpt = none ∨ ∃ h S, hOpt = some h ∧ s.snapshot h = some S ∧
          (S.tid ≠ cur ∨ id.cls ≠ .gpr ∨ s.cfg.numGpr ≤ id.num)) →
        targetAddr s inst addr hOpt cur = none)) ∧
    ((v = .empty ∨ ∃ a b, v = .pair a b) → targetAddr s inst addr hOpt cur = none)

/-- 43_classifier R164, R165: RESOLVE_TARGET with a known or absent handle. For a Call or UnconditionalJump
with a target address it makes one Resolve call and responds with the Location, whose source is present exactly
when the resolver knows the address; otherwise it responds with no Location and makes no call. -/
def Obligations.ResolveTargetLocates : Prop :=
  ∀ (inst : Instruction) (addr : Word) (hOpt : Option Nat) (cur : ThreadId) (s : State),
    s.handleKnown hOpt = true →
    (∀ a, kindOf s.cfg inst.opcode = .call ∨ kindOf s.cfg inst.opcode = .unconditionalJump →
      targetAddr s inst addr hOpt cur = some a →
      (∀ src, s.resolveAnswer a = .known src →
        exec (.resolveTarget inst addr hOpt cur) s =
          .next ((s.afterResolve a).ok (.location (some ⟨a, some src⟩)))) ∧
      (s.resolveAnswer a = .unknown →
        exec (.resolveTarget inst addr hOpt cur) s =
          .next ((s.afterResolve a).ok (.location (some ⟨a, none⟩))))) ∧
    ((kindOf s.cfg inst.opcode = .other ∨ kindOf s.cfg inst.opcode = .ret ∨
        targetAddr s inst addr hOpt cur = none) →
      exec (.resolveTarget inst addr hOpt cur) s = .next (s.ok (.location none)))

/-- 43_classifier R166 (the spec's own decision D52 for the optional handle): DECODE_ONE with a known or
absent handle and bytes that decode: it responds with the instruction, the row, the kind and the Location that
RESOLVE_TARGET would give. -/
def Obligations.DecodeOneDecodesClassifiesResolves : Prop :=
  ∀ (bytes : List Byte) (addr : Word) (hOpt : Option Nat) (cur : ThreadId) (s : State)
    (inst : Instruction) (r : Nat),
    s.handleKnown hOpt = true → decodeBytes s.cfg bytes = .ok (inst, r) →
    ∃ t u loc, exec (.decodeOne bytes addr hOpt cur) s = .next t ∧
      exec (.resolveTarget inst addr hOpt cur) s = .next u ∧
      u.responses = s.responses ++ [⟨.ok, .location loc⟩] ∧
      t = { u with responses := s.responses ++ [⟨.ok, .decodedOne inst r (kindOf s.cfg inst.opcode) loc⟩] }

/-- 43_classifier R167, R168 (the spec's own decision D37 for the order and the payload): MATCH_PROLOGUE
responds with the index of the first of tiny, small and big that, after getG, is how the opcodes begin, and
with no match when none is. -/
def Obligations.MatchPrologueFirstVariant : Prop :=
  ∀ (ops : List Opcode) (s : State),
    (∀ i, ((∃ t, (i, some t) ∈ [(0, some [.mov, .cmp, .b]), (1, some [.sub, .cmp, .b]), (2, s.cfg.tplBig)] ∧
          Opcode.ldr :: t <+: ops) ∧
        ∀ j t, j < i →
          (j, some t) ∈ [(0, some [.mov, .cmp, .b]), (1, some [.sub, .cmp, .b]), (2, s.cfg.tplBig)] →
          ¬ Opcode.ldr :: t <+: ops) →
      exec (.matchPrologue ops) s = .next (s.ok (.prologue true (some i)))) ∧
    ((∀ i t, (i, some t) ∈ [(0, some [.mov, .cmp, .b]), (1, some [.sub, .cmp, .b]), (2, s.cfg.tplBig)] →
        ¬ Opcode.ldr :: t <+: ops) →
      exec (.matchPrologue ops) s = .next (s.ok (.prologue false none)))

/-! ## The register snapshot -/

/-- 42_snapshot R141: LOAD_SNAPSHOT's header is 0x00000010; it adds one TRead to the trace. On a block of the right
length it allocates the next handle for a live snapshot with the parsed registers and a pending loader and
changes no other snapshot; on a transport error, or a block of another length, it raises RegisterTransportError
with the cause and allocates nothing. -/
def Obligations.LoadSnapshotReadsOneBlock : Prop :=
  ∀ (tid : ThreadId) (s : State),
    encode (.loadSnapshot tid) = .command 0x00000010 { tid := tid } ∧
    ∃ t, exec (.loadSnapshot tid) s = .next t ∧ t.trace = s.trace ++ [.read tid (s.readAnswer tid)] ∧
      t.cfg = s.cfg ∧ t.pending = s.pending ∧ t.resolves = s.resolves ∧ t.slotOut = s.slotOut ∧
      (∀ bytes, s.readAnswer tid = .ok bytes → bytes.length = s.cfg.gprBlockBytes →
        t.snapshot s.next = some ⟨tid, gprParse s.cfg bytes, .pending, true⟩ ∧
        (∀ j, j ≠ s.next → t.snapshot j = s.snapshot j) ∧ t.next = s.next + 1 ∧
        t.responses = s.responses ++ [⟨.ok, .handle s.next⟩]) ∧
      (∀ e, s.readAnswer tid = .err e →
        t.store = s.store ∧ t.next = s.next ∧
        t.responses = s.responses ++ [⟨.registerTransportError, .cause (.transport e)⟩]) ∧
      (∀ bytes, s.readAnswer tid = .ok bytes → bytes.length ≠ s.cfg.gprBlockBytes →
        t.store = s.store ∧ t.next = s.next ∧
        t.responses = s.responses ++ [⟨.registerTransportError, .cause .malformed⟩])

/-- 42_snapshot R142: AS_REGISTER_LIST, header 0x00000011 or 0x00000111, responds with every slot in LIST_ORDER.
Without `includeFP` it writes nothing but its response. With it, the floating-point state is resolved, by one
TReadFp when the loader was pending and by no call otherwise; a loaded block's registers are appended,
`unavailable` is a flag, and a failed load, which stays failed, is RegisterTransportError. On a handle that names
no snapshot it raises InvalidHandle. -/
def Obligations.AsRegisterListLists : Prop :=
  ∀ (h : Nat) (s : State),
    encode (.asRegisterList false h) = .command 0x00000011 { h := h } ∧
    encode (.asRegisterList true h) = .command 0x00000111 { h := h } ∧
    (∀ fp, s.snapshot h = none → exec (.asRegisterList fp h) s = .next (s.raise .invalidHandle .none)) ∧
    ∀ (S : Snapshot) (l : List (String × RegValue)), s.snapshot h = some S →
      l = s.cfg.listOrder.map (fun r => (regName s.cfg r, .word (readSlot S.reg r))) →
      exec (.asRegisterList false h) s = .next (s.ok (.registers l false)) ∧
      ∃ t r, exec (.asRegisterList true h) s = .next t ∧
        ((S.fp = .pending ∧ r = fpOutcome s.cfg (s.fpAnswer S.tid) ∧
            t.trace = s.trace ++ [.readFp S.tid (s.fpAnswer S.tid)]) ∨
          (S.fp = .resolved r ∧ t.trace = s.trace)) ∧
        t.snapshot h = some { S with fp := .resolved r } ∧ (∀ j, j ≠ h → t.snapshot j = s.snapshot j) ∧
        t.next = s.next ∧ t.cfg = s.cfg ∧ t.pending = s.pending ∧ t.resolves = s.resolves ∧
        t.slotOut = s.slotOut ∧
        (∀ b, r = .loaded b → t.responses = s.responses ++ [⟨.ok, .registers
          (l ++ (List.range s.cfg.numFpr).map (fun k => (fpName s.cfg k, .fp (b.fregs.getD k 0)))) false⟩]) ∧
        (r = .unavailable → t.responses = s.responses ++ [⟨.ok, .registers l true⟩]) ∧
        (∀ c, r = .failed c → t.responses = s.responses ++ [⟨.registerTransportError, .cause c⟩])

/-- 42_snapshot R143, 20_memory R65 (the spec's own decisions D25, D45; log 8 for the positional form): what an
answer of TReadFp makes of a pending loader. A block of the right length is loaded as FP_PARSE of its bytes: its
raw block is the bytes, and it has NUM_FPR registers of FP_BITS bits, each the number at its byte positions under a
positional layout. -/
def Obligations.FpAnswerDecidesFpState : Prop :=
  ∀ (c : Cfg) (bytes : List Byte) (e : TransportErr),
    (bytes.length = c.fpRawBytes → fpOutcome c (.ok bytes) = .loaded (fpParse c bytes)) ∧
    (fpParse c bytes).raw = bytes ∧ (fpParse c bytes).fregs.length = c.numFpr ∧
    (∀ x ∈ (fpParse c bytes).fregs, x < 2 ^ c.fpBits) ∧
    (∀ regs k ps, c.fpLayout = .positions regs → k < c.numFpr → regs[k]? = some ps →
      (fpParse c bytes).fregs[k]? = some (natAt bytes ps % 2 ^ c.fpBits)) ∧
    (bytes.length ≠ c.fpRawBytes → fpOutcome c (.ok bytes) = .failed .malformed) ∧
    fpOutcome c .notAvailable = .unavailable ∧ fpOutcome c (.err e) = .failed (.transport e)

/-- 42_snapshot R144, R145, R146: the three accessors respond with the value of their fixed slot and write
nothing but the response; on a handle that names no snapshot they raise InvalidHandle. -/
def Obligations.AccessorsReadFixedSlots : Prop :=
  ∀ (h : Nat) (s : State),
    (∀ S, s.snapshot h = some S →
      exec (.programCounter h) s = .next (s.ok (.value (readSlot S.reg s.cfg.pcSlot))) ∧
      exec (.stackPointer h) s = .next (s.ok (.value (readSlot S.reg s.cfg.spSlot))) ∧
      exec (.framePointer h) s = .next (s.ok (.value (readSlot S.reg s.cfg.fpSlot)))) ∧
    (s.snapshot h = none →
      exec (.programCounter h) s = .next (s.raise .invalidHandle) ∧
      exec (.stackPointer h) s = .next (s.raise .invalidHandle) ∧
      exec (.framePointer h) s = .next (s.raise .invalidHandle)) ∧
    encode (.programCounter h) = .command 0x00000012 { h := h } ∧
    encode (.stackPointer h) = .command 0x00000013 { h := h } ∧
    encode (.framePointer h) = .command 0x00000014 { h := h } ∧
    (∀ i, i < s.cfg.numGpr → i < 2 ^ 64 →
      (s.cfg.pcSlot = .gpr i → exec (.programCounter h) s = exec (.get h (BitVec.ofNat 64 i)) s) ∧
      (s.cfg.spSlot = .gpr i → exec (.stackPointer h) s = exec (.get h (BitVec.ofNat 64 i)) s) ∧
      (s.cfg.fpSlot = .gpr i → exec (.framePointer h) s = exec (.get h (BitVec.ofNat 64 i)) s))

/-- 42_snapshot R147 (the spec's own decision D23): GET responds with the general-purpose register's value
below NUM_GPR and UnknownRegister from NUM_GPR on; either way nothing but the response changes. -/
def Obligations.GetReadsGeneralRegister : Prop :=
  ∀ (h : Nat) (idx : Word) (s : State) (S : Snapshot), s.snapshot h = some S →
    (idx.toNat < s.cfg.numGpr →
      exec (.get h idx) s = .next (s.ok (.value (S.reg.gpr.getD idx.toNat 0)))) ∧
    (s.cfg.numGpr ≤ idx.toNat → exec (.get h idx) s = .next (s.raise .unknownRegister))

/-- 60_exceptions R181: GET raises UnknownRegister, with no payload and nothing else changed, from index NUM_GPR
on; no other instruction raises it; and a register operand whose number is out of range is no error of target
resolution, which then has no address. -/
def Obligations.UnknownRegisterOnlyFromGet : Prop :=
  (∀ (h : Nat) (idx : Word) (s : State) (S : Snapshot), s.snapshot h = some S →
    s.cfg.numGpr ≤ idx.toNat → exec (.get h idx) s = .next (s.raise .unknownRegister .none)) ∧
  (∀ (i : Instr) (s t : State) (r : Response), exec i s = .next t → t.responses = s.responses ++ [r] →
    r.status = .unknownRegister → ∃ h idx, i = .get h idx ∧ s.cfg.numGpr ≤ idx.toNat) ∧
  (∀ (id : RegId) (s : State) (hOpt : Option Nat) (cur : ThreadId), s.cfg.numGpr ≤ id.num →
    registerTarget s id hOpt cur = none)

/-- 42_snapshot R148 (the spec's own decision D26): COPY of a snapshot whose floating-point state is, or
resolves to, `r` other than failed: the next handle names an owned snapshot with the same thread, registers and
resolved floating-point state, the source keeps all but its floating-point state, and nothing else changes. -/
def Obligations.CopyAllocatesOwned : Prop :=
  ∀ (h : Nat) (s : State) (S : Snapshot) (r : FpResult), s.snapshot h = some S → h ≠ s.next →
    s.fpResult S = r → (∀ c, r ≠ .failed c) →
    ∃ t, exec (.copy h) s = .next t ∧
      t.snapshot s.next = some ⟨S.tid, S.reg, .resolved r, false⟩ ∧
      t.snapshot h = some { S with fp := .resolved r } ∧
      (∀ j, j ≠ h → j ≠ s.next → t.snapshot j = s.snapshot j) ∧ t.next = s.next + 1 ∧
      (S.fp = .pending → t.trace = s.trace ++ [.readFp S.tid (s.fpAnswer S.tid)]) ∧
      (S.fp ≠ .pending → t.trace = s.trace) ∧
      t.responses = s.responses ++ [⟨.ok, .handle s.next⟩] ∧
      t.cfg = s.cfg ∧ t.pending = s.pending ∧ t.resolves = s.resolves ∧ t.slotOut = s.slotOut

/-- 42_snapshot R148, 60_exceptions R183, R188 (the spec's own decisions D25, D26): COPY of a snapshot whose
floating-point state is, or becomes, failed raises RegisterTransportError with its cause and makes no copy;
the state stays failed. -/
def Obligations.CopyFailsOnFailedFp : Prop :=
  ∀ (h : Nat) (s : State) (S : Snapshot) (c : Cause), s.snapshot h = some S → s.fpResult S = .failed c →
    ∃ t, exec (.copy h) s = .next t ∧ t.next = s.next ∧
      t.snapshot h = some { S with fp := .resolved (.failed c) } ∧
      (∀ j, j ≠ h → t.snapshot j = s.snapshot j) ∧
      (S.fp = .pending → t.trace = s.trace ++ [.readFp S.tid (s.fpAnswer S.tid)]) ∧
      (S.fp ≠ .pending → t.trace = s.trace) ∧
      t.responses = s.responses ++ [⟨.registerTransportError, .cause c⟩] ∧
      t.cfg = s.cfg ∧ t.pending = s.pending ∧ t.resolves = s.resolves ∧ t.slotOut = s.slotOut

/-- 42_snapshot R149, R150, R152 (the spec's own decisions D27, D28, D30): a setter of a mutable register
whose TWrite answers Ok writes the whole block with that one slot changed to the snapshot's thread, stores the
value in the slot, and changes no other slot and no other snapshot. -/
def Obligations.SettersWriteBackOneSlot : Prop :=
  ∀ (h : Nat) (v : Word) (s : State) (S : Snapshot) (i : Instr) (slot : RegSel), s.snapshot h = some S →
    ((i = .setPc h v ∧ slot = s.cfg.pcSlot ∧ s.cfg.mutablePc = true) ∨
      (i = .setSp h v ∧ slot = s.cfg.spSlot ∧ s.cfg.mutableSp = true)) →
    s.writeAnswer S.tid (gprSerialize s.cfg (writeSlot S.reg slot v)) = .ok →
    ∃ t, exec i s = .next t ∧
      t.snapshot h = some { S with reg := writeSlot S.reg slot v } ∧
      (RegShape s.cfg S.reg → hasSlot s.cfg slot = true → readSlot (writeSlot S.reg slot v) slot = v) ∧
      (∀ q, q ≠ slot → readSlot (writeSlot S.reg slot v) q = readSlot S.reg q) ∧
      (∀ j, j ≠ h → t.snapshot j = s.snapshot j) ∧ t.next = s.next ∧
      t.trace = s.trace ++ [.write S.tid (gprSerialize s.cfg (writeSlot S.reg slot v)) .ok] ∧
      t.responses = s.responses ++ [⟨.ok, .none⟩] ∧
      t.cfg = s.cfg ∧ t.pending = s.pending ∧ t.resolves = s.resolves ∧ t.slotOut = s.slotOut

/-- 42_snapshot R152, 60_exceptions R188 (the spec's own decision D27): after a failed TWrite the setter
raises RegisterTransportError with the transport's error, the trace keeps the TWrite, and the slot holds the
old or the new value; every other slot and snapshot is unchanged. -/
def Obligations.FailedWriteLeavesOldOrNew : Prop :=
  ∀ (h : Nat) (v : Word) (s : State) (S : Snapshot) (i : Instr) (slot : RegSel) (e : TransportErr),
    s.snapshot h = some S →
    ((i = .setPc h v ∧ slot = s.cfg.pcSlot ∧ s.cfg.mutablePc = true) ∨
      (i = .setSp h v ∧ slot = s.cfg.spSlot ∧ s.cfg.mutableSp = true)) →
    s.writeAnswer S.tid (gprSerialize s.cfg (writeSlot S.reg slot v)) = .err e →
    ∃ t x, exec i s = .next t ∧ (x = readSlot S.reg slot ∨ x = v) ∧
      t.snapshot h = some { S with reg := writeSlot S.reg slot x } ∧
      (∀ j, j ≠ h → t.snapshot j = s.snapshot j) ∧ t.next = s.next ∧
      t.trace = s.trace ++ [.write S.tid (gprSerialize s.cfg (writeSlot S.reg slot v)) (.err e)] ∧
      t.responses = s.responses ++ [⟨.registerTransportError, .cause (.transport e)⟩] ∧
      t.cfg = s.cfg ∧ t.pending = s.pending ∧ t.resolves = s.resolves ∧ t.slotOut = s.slotOut

/-- 60_exceptions R182, 42_snapshot R151: on a known handle SET_DX always, and SET_PC and SET_SP when their
register is not mutable, raise UnsupportedRegisterOperation, with no transport call and nothing else changed. -/
def Obligations.UnsupportedSettersRaise : Prop :=
  ∀ (h : Nat) (v : Word) (s : State) (S : Snapshot), s.snapshot h = some S →
    exec (.setDx h v) s = .next (s.raise .unsupportedRegisterOperation .none) ∧
    (s.cfg.mutablePc = false →
      exec (.setPc h v) s = .next (s.raise .unsupportedRegisterOperation .none)) ∧
    (s.cfg.mutableSp = false →
      exec (.setSp h v) s = .next (s.raise .unsupportedRegisterOperation .none))

/-- 60_exceptions R186, R187, 42_snapshot R156 (the spec's own decisions D21, D39, D52): every command whose
handle operand names no snapshot raises InvalidHandle, whatever its other operands, and changes nothing but the
response stream. -/
def Obligations.UnknownHandleRaisesInvalidHandle : Prop :=
  ∀ (h : Nat) (s : State) (i : Instr), s.snapshot h = none →
    ((∃ fp, i = .asRegisterList fp h) ∨ i = .programCounter h ∨ i = .stackPointer h ∨ i = .framePointer h ∨
      (∃ idx, i = .get h idx) ∨ i = .copy h ∨ (∃ v, i = .setPc h v) ∨ (∃ v, i = .setSp h v) ∨
      (∃ v, i = .setDx h v) ∨ (∃ inst addr cur, i = .resolveTarget inst addr (some h) cur) ∨
      (∃ bytes addr cur, i = .decodeOne bytes addr (some h) cur)) →
    exec i s = .next (s.raise .invalidHandle .none)

/-- 42_snapshot R155 (derived in the spec): right after COPY(h) = h', every accessor, AS_REGISTER_LIST with
and without floating-point registers and GET at every index respond the same on h and on h', and none of them
issues a transport call. -/
def Obligations.CopyObservesEqual : Prop :=
  ∀ (h h' : Nat) (s t : State), HandlesSequential s → exec (.copy h) s = .next t →
    t.responses = s.responses ++ [⟨.ok, .handle h'⟩] →
    (∀ (u v : State) (p : Instr × Instr),
      (p ∈ (accessorsOf h).zip (accessorsOf h') ∨ ∃ idx, p = (.get h idx, .get h' idx)) →
      exec p.1 t = .next u → exec p.2 t = .next v →
      u.responses = v.responses ∧ u.trace = t.trace ∧ v.trace = t.trace)

/-! ## Rules about the whole machine -/

/-- 10_state R33 (and R131, R161 to R167's "State written: none"): the instructions that write no state leave
the store, `next` and the transport trace as they were. -/
def Obligations.ReadersLeaveStoreAndTrace : Prop :=
  ∀ (i : Instr) (s t : State), writesNoState i = true → exec i s = .next t →
    t.store = s.store ∧ t.next = s.next ∧ t.trace = s.trace ∧ t.cfg = s.cfg ∧ t.pending = s.pending

/-- 42_snapshot R153 (derived in the spec, decision D30): the independence law. An instruction changes at most
one snapshot that exists: the one its handle operand names, and then a setter changes at most one slot of its
registers, and any other instruction its floating-point state only. -/
def Obligations.SnapshotsAreIndependent : Prop :=
  ∀ (i : Instr) (s t : State) (j : Nat) (S : Snapshot), HandlesSequential s → s.snapshot j = some S →
    exec i s = .next t →
    t.snapshot j = some S ∨
      (∃ v x, (i = .setPc j v ∧ t.snapshot j = some { S with reg := writeSlot S.reg s.cfg.pcSlot x }) ∨
        (i = .setSp j v ∧ t.snapshot j = some { S with reg := writeSlot S.reg s.cfg.spSlot x })) ∨
      ((i = .asRegisterList true j ∨ i = .copy j) ∧
        ∃ r, S.fp = .pending ∧ t.snapshot j = some { S with fp := .resolved r })

/-- 10_state R27 (derived in the spec): only LOAD_SNAPSHOT and COPY change the set of handles, and a step that
changes it adds exactly the handle `next`. -/
def Obligations.OnlyLoadAndCopyAllocate : Prop :=
  ∀ (i : Instr) (s t : State), HandlesSequential s → exec i s = .next t →
    (t.store.map (·.1) = s.store.map (·.1) ∧ t.next = s.next) ∨
    (((∃ tid, i = .loadSnapshot tid) ∨ ∃ h, i = .copy h) ∧
      t.store.map (·.1) = s.store.map (·.1) ++ [s.next] ∧ t.next = s.next + 1)

/-- 10_state R26 (the spec's own decision D21): a handle is never freed and never reused: no step removes one,
and a step adds none below `next`. -/
def Obligations.HandlesNeverFreedOrReused : Prop :=
  ∀ s t : State, step s = .next t →
    s.next ≤ t.next ∧ (∀ h, (s.snapshot h).isSome = true → (t.snapshot h).isSome = true) ∧
    (∀ h, h < s.next → s.snapshot h = none → t.snapshot h = none)

/-- 10_state R40 (derived in the spec), 42_snapshot R143: once a snapshot's floating-point state is other than
`pending` it never changes, whatever the step. -/
def Obligations.ResolvedFpStateIsFinal : Prop :=
  ∀ (s t : State) (h : Nat) (S : Snapshot) (r : FpResult), HandlesSequential s → step s = .next t →
    s.snapshot h = some S → S.fp = .resolved r →
    ∃ T, t.snapshot h = some T ∧ T.fp = .resolved r ∧ T.tid = S.tid ∧ T.live = S.live

/-- 60_exceptions R193 (the spec's own decision D29): a Resume is taken without a response; it changes the
registers of the live snapshots of its thread and nothing else of any snapshot; owned snapshots and those of
other threads are unchanged. The fresh values are free, so nothing is said of them. -/
def Obligations.ResumeTouchesLiveSnapshotsOfThread : Prop :=
  ∀ (s : State) (tid : ThreadId) (rest : List Event), s.pending = .resume tid :: rest →
    ∃ t, step s = .next t ∧ t.responses = s.responses ∧ t.trace = s.trace ∧ t.next = s.next ∧
      t.pending = rest ∧ t.cfg = s.cfg ∧ t.resolves = s.resolves ∧ t.slotOut = s.slotOut ∧
      (∀ h, s.snapshot h = none → t.snapshot h = none) ∧
      (∀ h S, s.snapshot h = some S → S.live = false ∨ S.tid ≠ tid → t.snapshot h = some S) ∧
      (∀ h S, s.snapshot h = some S → ∃ reg, t.snapshot h = some { S with reg := reg } ∧
        reg.gpr.length = S.reg.gpr.length ∧ reg.special.length = S.reg.special.length)

/-- 00_scope R9, 70_reset_and_hazards R199: no command, no step and no reset changes the configuration. -/
def Obligations.ConfigurationNeverChanges : Prop :=
  (∀ (i : Instr) (s t : State), exec i s = .next t → t.cfg = s.cfg) ∧
  (∀ s t : State, step s = .next t → t.cfg = s.cfg) ∧
  (∀ c : Cfg, (State.resetWith c).cfg = c)

/-- 30_encoding R89 (the spec's own decision D1): every request, decoded or not, gets exactly one response. -/
def Obligations.OneResponsePerRequest : Prop :=
  ∀ (s t : State) (header : Word32) (o : Operands) (rest : List Event),
    s.pending = .packet (.command header o) :: rest → step s = .next t →
    t.pending = rest ∧ ∃ r, t.responses = s.responses ++ [r]

/-- 41_decoder R137, 60_exceptions R177, R190: no step stops with a fault, and none is refused but a descriptor
with a reserved tag, which no configuration holds; every instruction answers a next state. -/
def Obligations.EveryStepAnswers : Prop :=
  (∀ (i : Instr) (s : State), ∃ t, exec i s = .next t) ∧
  (∀ s : State, (∃ t, step s = .next t) ∨
    ∃ raw w prev rest, s.pending = .packet (.descriptor raw w prev) :: rest ∧ 9 ≤ raw.tag.toNat ∧
      step s = .refused (.reservedTag raw.tag))

/-- 60_exceptions R188 (the spec's own decisions D25, D27): a command that responds with an error allocates
nothing and leaves every snapshot as it was, but for (a) a floating-point state that stays failed and (b) the
slot of a failed setter, old or new; it adds at most one entry to the trace, and only LOAD_SNAPSHOT,
AS_REGISTER_LIST with `includeFP`, COPY, SET_PC and SET_SP add one. -/
def Obligations.ErrorsLeaveStateBut : Prop :=
  ∀ (i : Instr) (s t : State) (r : Response), exec i s = .next t → t.responses = s.responses ++ [r] →
    r.status ≠ .ok →
    t.next = s.next ∧
    (∀ j, t.snapshot j = s.snapshot j ∨ ∃ S, s.snapshot j = some S ∧
      (((i = .asRegisterList true j ∨ i = .copy j) ∧
          ∃ c, t.snapshot j = some { S with fp := .resolved (.failed c) }) ∨
       (∃ v x, (x = readSlot S.reg s.cfg.pcSlot ∨ x = v) ∧ i = .setPc j v ∧
          t.snapshot j = some { S with reg := writeSlot S.reg s.cfg.pcSlot x }) ∨
       (∃ v x, (x = readSlot S.reg s.cfg.spSlot ∨ x = v) ∧ i = .setSp j v ∧
          t.snapshot j = some { S with reg := writeSlot S.reg s.cfg.spSlot x }))) ∧
    (t.trace = s.trace ∨ (writesNoState i = false ∧ ∃ call, t.trace = s.trace ++ [call]))

/-- The invariant (10_state R26, R29, R38, R40, R46; 42_snapshot R154; 60_exceptions R184; 70 R200): from every
state that meets it, a step gives a state that meets it. In particular the trace holds, for each thread, exactly as
many TReadFps as the thread has live snapshots whose loader has been invoked. -/
def Obligations.StepKeepsInvariant : Prop :=
  ∀ s t : State, Inv s → step s = .next t → Inv t

/-- 70_reset_and_hazards R197, R200: the reset state meets the invariant: the store and the trace are empty,
`next` is 0, the port is idle, and the configuration (any that can be built, log 1) passes the build checks. -/
def Obligations.ResetMeetsInvariant : Prop :=
  Inv State.reset ∧ State.reset.store = [] ∧ State.reset.next = 0 ∧ State.reset.trace = [] ∧
    State.reset.pending = [] ∧ (∀ h, State.reset.snapshot h = none)

/-! ## Building the block -/

/-- 20_memory R65 (the spec's own decision D45; log 8 for the two forms of a layout): under every layout that passes
the build check, positional or uninterpreted, serialising a register file of the configuration's shape gives
GPR_BLOCK_BYTES bytes and parsing them gives the register file back. -/
def Obligations.RegisterBlockParsesBack : Prop :=
  ∀ c : Cfg, layoutOk c = true →
    LayoutLawful c ∧ ∀ f, (gprSerialize c f).length = c.gprBlockBytes

/-- 30_encoding R79, R80, R83, 40_operands R123, 70_reset_and_hazards R197, R200, 10_state R31, 43_classifier R168
(the spec's own decisions D13, D14, D42; the layout check: log 8; a register descriptor of width 0 without a remap
passes: the model's choice, log 18): a configuration that passes every build check, as the rules word them, gives a
block in its reset state that holds it, and any other is refused and gives no block. -/
def Obligations.IllFormedConfigurationsRefused : Prop :=
  ∀ c : Cfg,
    (ConfigurationPasses c → boot c = .next (State.resetWith c)) ∧
    (¬ ConfigurationPasses c → ∃ failure, boot c = .refused (.illFormedConfig failure)) ∧
    (State.resetWith c).cfg = c ∧ (State.resetWith c).store = [] ∧ (State.resetWith c).next = 0 ∧
    (State.resetWith c).trace = [] ∧ (State.resetWith c).pending = []
end

