-- ==== Sys2Proof/Laws/Config.lean ====
section
/-! SUPPORT. Laws of the configuration: the predicate language leaves out no predicate (30_encoding R78, log 11),
and a built block's configuration passes its checks (70_reset_and_hazards R200). -/

namespace Sys2Proof.Laws

open Sys2Proof.Machine

/-- Some predicate holds exactly of the words that agree with `v` on the lowest `n` bits. -/
theorem pred_low_bits (v : Word32) (n : Nat) :
    ∃ p, ∀ w, evalPred w p = true ↔ ∀ i < n, w.getLsbD i = v.getLsbD i := by
  induction n with
  | zero => exact ⟨.const true, fun w => by simp [evalPred]⟩
  | succ n ih =>
    obtain ⟨p, hp⟩ := ih
    have hb : ∃ q, ∀ w, evalPred w q = true ↔ w.getLsbD n = v.getLsbD n := by
      cases v.getLsbD n
      · exact ⟨.not (.bit n), fun w => by simp [evalPred]⟩
      · exact ⟨.bit n, fun w => by simp [evalPred]⟩
    obtain ⟨q, hq⟩ := hb
    refine ⟨.and p q, fun w => ?_⟩
    simp only [evalPred, Bool.and_eq_true, hp, hq]
    exact ⟨fun h i hi => (Nat.lt_succ_iff_lt_or_eq.1 hi).elim (h.1 i) (fun e => e ▸ h.2),
      fun h => ⟨fun i hi => h i (Nat.lt_succ_of_lt hi), h n (Nat.lt_succ_self n)⟩⟩

/-- Some predicate holds exactly of the word `v`. -/
theorem pred_singleton (v : Word32) : ∃ p, ∀ w, evalPred w p = true ↔ w = v := by
  obtain ⟨p, hp⟩ := pred_low_bits v 32
  exact ⟨p, fun w => (hp w).trans ⟨fun h => BitVec.eq_of_getLsbD_eq h, fun h _ _ => h ▸ rfl⟩⟩

/-- Some predicate holds exactly of the words listed that `f` accepts. -/
theorem pred_of_list (f : Word32 → Bool) (l : List Word32) :
    ∃ p, ∀ w, evalPred w p = true ↔ w ∈ l ∧ f w = true := by
  induction l with
  | nil => exact ⟨.const false, fun w => by simp [evalPred]⟩
  | cons v rest ih =>
    obtain ⟨p, hp⟩ := ih
    obtain ⟨q, hq⟩ := pred_singleton v
    refine ⟨.or (.and q (.const (f v))) p, fun w => ?_⟩
    simp only [evalPred, Bool.or_eq_true, Bool.and_eq_true, hp, hq, List.mem_cons]
    constructor
    · rintro (⟨rfl, h⟩ | ⟨h, h'⟩)
      · exact ⟨.inl rfl, h⟩
      · exact ⟨.inr h, h'⟩
    · rintro ⟨rfl | h, h'⟩
      · exact .inl ⟨rfl, h'⟩
      · exact .inr ⟨h, h'⟩

/-- The predicate language expresses every Boolean function of the word. -/
theorem pred_complete (f : Word32 → Bool) : ∃ p, ∀ w, evalPred w p = f w := by
  obtain ⟨p, hp⟩ := pred_of_list f ((List.range (2 ^ 32)).map (BitVec.ofNat 32))
  refine ⟨p, fun w => Bool.eq_iff_iff.2 ((hp w).trans ⟨And.right, fun h => ⟨?_, h⟩⟩)⟩
  exact List.mem_map.2 ⟨w.toNat, List.mem_range.2 w.isLt, by simp⟩

theorem smallestCfg_wf : cfgWf smallestCfg = true := by decide

/-- The configuration of a built block passes its checks, whatever was offered. -/
theorem builtCfg_wf : cfgWf builtCfg = true := by
  unfold builtCfg
  split
  · assumption
  · exact smallestCfg_wf

end Sys2Proof.Laws
end

