-- ==== Sys2Proof/Laws/Layout.lean ====
section
/-! SUPPORT. Laws of the register block's layouts (20_memory R65): a register file read back slot by slot, the
plain layout, and what the uninterpreted layouts are: every layout that can be parsed back (log 8). -/

namespace Sys2Proof.Laws

open Sys2Proof.Machine Sys2Proof.Safety

/-! ## Register files -/

theorem regFileOf_shape (c : Cfg) (value : RegSel → Word) : RegShape c (regFileOf c value) := by
  simp [RegShape, regFileOf]

theorem readSlot_regFileOf {c : Cfg} {value : RegSel → Word} {r : RegSel} (h : hasSlot c r = true) :
    readSlot (regFileOf c value) r = value r := by
  cases r <;> simp_all [readSlot, regFileOf, hasSlot]

/-- A register file of the right shape is what its slots hold. -/
theorem regFileOf_readSlot {c : Cfg} {f : RegFile} (h : RegShape c f) : regFileOf c (readSlot f) = f := by
  obtain ⟨g, s⟩ := f
  obtain ⟨hg, hs⟩ := h
  simp only [regFileOf, readSlot, RegFile.mk.injEq] at *
  exact ⟨List.ext_getElem (by simp [hg]) fun i _ hi => by simp [hi],
    List.ext_getElem (by simp [hs]) fun i _ hi => by simp [hi]⟩

theorem regFileOf_congr {c : Cfg} {v w : RegSel → Word} (h : ∀ r, hasSlot c r = true → v r = w r) :
    regFileOf c v = regFileOf c w := by
  simp only [regFileOf, RegFile.mk.injEq]
  exact ⟨List.map_congr_left fun i hi => h _ (by simpa [hasSlot] using hi),
    List.map_congr_left fun i hi => h _ (by simpa [hasSlot] using hi)⟩

/-! ## The plain layout -/

theorem natOfBytes_byteOfWord (v : Word) :
    natOfBytes ((List.range 8).map (byteOfWord v)) = v.toNat := by
  have := v.isLt
  simp only [List.range, List.range.loop, List.map, natOfBytes, byteOfWord, BitVec.toNat_ofNat]
  omega

theorem getElem?_slotIndex {c : Cfg} {r : RegSel} (h : hasSlot c r = true) :
    (allSlots c)[slotIndex c r]? = some r := by
  cases r <;> simp_all [allSlots, slotIndex, hasSlot, List.getElem?_append]

/-- Every place below the number of slots is some slot's. -/
theorem exists_slotIndex (c : Cfg) {k : Nat} (h : k < c.numGpr + c.numSpecial) :
    ∃ r, hasSlot c r = true ∧ slotIndex c r = k := by
  by_cases hk : k < c.numGpr
  · exact ⟨.gpr k, by simpa [hasSlot], rfl⟩
  · exact ⟨.special (k - c.numGpr), by simp [hasSlot]; omega, by simp [slotIndex]; omega⟩

theorem slotIndex_lt {c : Cfg} {r : RegSel} (h : hasSlot c r = true) :
    slotIndex c r < c.numGpr + c.numSpecial := by
  cases r <;> simp_all [slotIndex, hasSlot]; omega

/-- Byte `j` of a slot stands at position `j` after the slot's first. -/
theorem plainByte_slot {c : Cfg} {r : RegSel} (h : hasSlot c r = true) (f : RegFile) {j : Nat} (hj : j < 8) :
    plainByte c f (8 * slotIndex c r + j) = byteOfWord (readSlot f r) j := by
  have hd : (8 * slotIndex c r + j) / 8 = slotIndex c r := by omega
  have hm : (8 * slotIndex c r + j) % 8 = j := by omega
  simp only [plainByte, hd, hm, getElem?_slotIndex h]

/-- A plain block reads back the register file it was made of, when it has room for the slots. -/
theorem plainSlot_plainByte {c : Cfg} (hroom : 8 * (c.numGpr + c.numSpecial) ≤ c.gprBlockBytes) (f : RegFile)
    {r : RegSel} (h : hasSlot c r = true) :
    plainSlot c (List.ofFn fun p : Fin c.gprBlockBytes => plainByte c f p) r = readSlot f r := by
  have hlt := slotIndex_lt h
  have hmap : ((List.range' (8 * slotIndex c r) 8).map fun p =>
      (List.ofFn fun p : Fin c.gprBlockBytes => plainByte c f p).getD p 0) =
      (List.range 8).map (byteOfWord (readSlot f r)) := by
    rw [List.range'_eq_map_range, List.map_map]
    refine List.map_congr_left fun j hj => ?_
    have hj := List.mem_range.1 hj
    have hp : 8 * slotIndex c r + j < c.gprBlockBytes := by omega
    simp [hp, plainByte_slot h f hj]
  rw [plainSlot, natAt, hmap, natOfBytes_byteOfWord, BitVec.ofNat_toNat, BitVec.setWidth_eq]

/-! ## The uninterpreted layouts -/

/-- A block of `GPR_BLOCK_BYTES` bytes by its positions. -/
def blockOf (c : Cfg) (bytes : List Byte) : Fin c.gprBlockBytes → Byte := fun p => bytes.getD p 0

theorem ofFn_blockOf {c : Cfg} {bytes : List Byte} (h : bytes.length = c.gprBlockBytes) :
    List.ofFn (blockOf c bytes) = bytes :=
  List.ext_getElem (by simp [h]) fun i _ hi => by simp [blockOf, hi]

theorem blockOf_ofFn (c : Cfg) (b : Fin c.gprBlockBytes → Byte) : blockOf c (List.ofFn b) = b := by
  funext p; simp [blockOf]

/-- A layout that can be parsed back serialises no two register files alike. -/
theorem serialize_injective {c : Cfg} {ser : RegFile → List Byte} {par : List Byte → RegFile}
    (hlen : ∀ f, RegShape c f → (ser f).length = c.gprBlockBytes)
    (hlaw : ∀ f, RegShape c f → par (ser f) = f) :
    Function.Injective fun f : {f // RegShape c f} => blockOf c (ser f) := by
  intro f g h
  have := congrArg List.ofFn h
  simp only [ofFn_blockOf (hlen f f.2), ofFn_blockOf (hlen g g.2)] at this
  exact Subtype.ext (by rw [← hlaw f f.2, this, hlaw g g.2])

theorem card_bits (n : Nat) : Fintype.card (BitVec n) = 2 ^ n :=
  (Fintype.card_congr ⟨BitVec.toFin, BitVec.ofFin, fun _ => rfl, fun _ => rfl⟩).trans (Fintype.card_fin _)

/-- A layout that can be parsed back has eight bytes for each slot: the build check on an uninterpreted layout
refuses none that has a meaning. -/
theorem lawful_layout_has_room {c : Cfg} {ser : RegFile → List Byte} {par : List Byte → RegFile}
    (hlen : ∀ f, RegShape c f → (ser f).length = c.gprBlockBytes)
    (hlaw : ∀ f, RegShape c f → par (ser f) = f) : 8 * (c.numGpr + c.numSpecial) ≤ c.gprBlockBytes := by
  let file (v : Fin (c.numGpr + c.numSpecial) → Word) : {f // RegShape c f} :=
    ⟨regFileOf c fun r => if h : slotIndex c r < c.numGpr + c.numSpecial then v ⟨_, h⟩ else 0,
      regFileOf_shape _ _⟩
  have hfile : Function.Injective file := by
    intro v w h
    funext k
    obtain ⟨r, hr, hk⟩ := exists_slotIndex c k.2
    have := congrArg (fun f => readSlot f r) (congrArg Subtype.val h)
    simpa only [file, readSlot_regFileOf hr, hk, k.2, dite_true] using this
  have := Fintype.card_le_of_injective _ ((serialize_injective hlen hlaw).comp hfile)
  rw [Fintype.card_fun, Fintype.card_fun, Fintype.card_fin, Fintype.card_fin, card_bits, card_bits,
    ← Nat.pow_mul, ← Nat.pow_mul] at this
  have := (Nat.pow_le_pow_iff_right (Nat.lt_succ_self 1)).1 this
  omega

/-- Two injections into a finite type differ by a rearrangement of it. -/
theorem exists_perm_extending {α β : Type} [Finite β] {P S : α → β} (hP : P.Injective) (hS : S.Injective) :
    ∃ π : Equiv.Perm β, ∀ a, π (P a) = S a := by
  classical
  let e : {x // x ∈ Set.range P} ≃ {x // x ∈ Set.range S} :=
    (Equiv.ofInjective P hP).symm.trans (Equiv.ofInjective S hS)
  refine ⟨e.extendSubtype, fun a => ?_⟩
  rw [Equiv.extendSubtype_apply_of_mem e _ ⟨a, rfl⟩]
  exact congrArg (fun x => (Equiv.ofInjective S hS x).val) ((Equiv.ofInjective P hP).symm_apply_apply a)

/-- The uninterpreted layouts leave out no layout that can be parsed back: for every such pair of a serialiser
and a parser some rearrangement, and some values on the blocks no register file serialises to, give it. -/
theorem openLayout_complete {c : Cfg} {ser : RegFile → List Byte} {par : List Byte → RegFile}
    (hlen : ∀ f, RegShape c f → (ser f).length = c.gprBlockBytes)
    (hlaw : ∀ f, RegShape c f → par (ser f) = f) (hpar : ∀ bytes, RegShape c (par bytes)) :
    ∃ π other, (∀ f, RegShape c f → openSerialize c π f = ser f) ∧
      ∀ bytes, regFileOf c (openSlot c π other bytes) = par bytes := by
  have hroom := lawful_layout_has_room hlen hlaw
  have hplain : Function.Injective fun (f : {f // RegShape c f}) (p : Fin c.gprBlockBytes) =>
      plainByte c f p := by
    intro f g h
    have h := congrArg List.ofFn h
    refine Subtype.ext ?_
    rw [← regFileOf_readSlot f.2, ← regFileOf_readSlot g.2]
    exact regFileOf_congr fun r hr => by
      rw [← plainSlot_plainByte hroom f.1 hr, h, plainSlot_plainByte hroom g.1 hr]
  obtain ⟨π, hπ⟩ := exists_perm_extending hplain (serialize_injective hlen hlaw)
  have hser : ∀ f, RegShape c f → openSerialize c π f = ser f := fun f hf => by
    rw [openSerialize, hπ ⟨f, hf⟩, ofFn_blockOf (hlen f hf)]
  refine ⟨π, fun bytes => readSlot (par bytes), hser, fun bytes => ?_⟩
  refine (regFileOf_congr fun r hr => ?_).trans (regFileOf_readSlot (hpar bytes))
  unfold openSlot
  split
  · rename_i h
    have hs : RegShape c (openCandidate c π bytes) := regFileOf_shape _ _
    rw [hser _ hs] at h
    rw [← h, hlaw _ hs, h]
  · rfl

end Sys2Proof.Laws
end

