-- ==== Sys2Proof/Laws/State.lean ====
section
/-! SUPPORT. One lemma per field per state update, each true by rfl, so that no proof unfolds a record
update. -/

namespace Sys2Proof.Machine

variable (s : State)

/-! `State.respond` -/

@[simp] theorem State.respond_cfg (st : Status) (p : Payload) : (s.respond st p).cfg = s.cfg := rfl
@[simp] theorem State.respond_store (st : Status) (p : Payload) : (s.respond st p).store = s.store := rfl
@[simp] theorem State.respond_next (st : Status) (p : Payload) : (s.respond st p).next = s.next := rfl
@[simp] theorem State.respond_trace (st : Status) (p : Payload) : (s.respond st p).trace = s.trace := rfl
@[simp] theorem State.respond_pending (st : Status) (p : Payload) :
    (s.respond st p).pending = s.pending := rfl
@[simp] theorem State.respond_responses (st : Status) (p : Payload) :
    (s.respond st p).responses = s.responses ++ [⟨st, p⟩] := rfl
@[simp] theorem State.respond_resolves (st : Status) (p : Payload) :
    (s.respond st p).resolves = s.resolves := rfl
@[simp] theorem State.respond_slotOut (st : Status) (p : Payload) :
    (s.respond st p).slotOut = s.slotOut := rfl
@[simp] theorem State.respond_oracle (st : Status) (p : Payload) : (s.respond st p).oracle = s.oracle := rfl
@[simp] theorem State.respond_draws (st : Status) (p : Payload) : (s.respond st p).draws = s.draws := rfl

/-! `State.ok` -/

@[simp] theorem State.ok_cfg (p : Payload) : (s.ok p).cfg = s.cfg := rfl
@[simp] theorem State.ok_store (p : Payload) : (s.ok p).store = s.store := rfl
@[simp] theorem State.ok_next (p : Payload) : (s.ok p).next = s.next := rfl
@[simp] theorem State.ok_trace (p : Payload) : (s.ok p).trace = s.trace := rfl
@[simp] theorem State.ok_pending (p : Payload) : (s.ok p).pending = s.pending := rfl
@[simp] theorem State.ok_responses (p : Payload) : (s.ok p).responses = s.responses ++ [⟨.ok, p⟩] := rfl
@[simp] theorem State.ok_resolves (p : Payload) : (s.ok p).resolves = s.resolves := rfl
@[simp] theorem State.ok_slotOut (p : Payload) : (s.ok p).slotOut = s.slotOut := rfl
@[simp] theorem State.ok_oracle (p : Payload) : (s.ok p).oracle = s.oracle := rfl
@[simp] theorem State.ok_draws (p : Payload) : (s.ok p).draws = s.draws := rfl

/-! `State.raise` -/

@[simp] theorem State.raise_cfg (e : Status) (p : Payload) : (s.raise e p).cfg = s.cfg := rfl
@[simp] theorem State.raise_store (e : Status) (p : Payload) : (s.raise e p).store = s.store := rfl
@[simp] theorem State.raise_next (e : Status) (p : Payload) : (s.raise e p).next = s.next := rfl
@[simp] theorem State.raise_trace (e : Status) (p : Payload) : (s.raise e p).trace = s.trace := rfl
@[simp] theorem State.raise_pending (e : Status) (p : Payload) : (s.raise e p).pending = s.pending := rfl
@[simp] theorem State.raise_responses (e : Status) (p : Payload) :
    (s.raise e p).responses = s.responses ++ [⟨e, p⟩] := rfl
@[simp] theorem State.raise_resolves (e : Status) (p : Payload) : (s.raise e p).resolves = s.resolves := rfl
@[simp] theorem State.raise_slotOut (e : Status) (p : Payload) : (s.raise e p).slotOut = s.slotOut := rfl
@[simp] theorem State.raise_oracle (e : Status) (p : Payload) : (s.raise e p).oracle = s.oracle := rfl
@[simp] theorem State.raise_draws (e : Status) (p : Payload) : (s.raise e p).draws = s.draws := rfl

/-! `State.setSnapshot` -/

@[simp] theorem State.setSnapshot_cfg (h : Nat) (S : Snapshot) : (s.setSnapshot h S).cfg = s.cfg := rfl
@[simp] theorem State.setSnapshot_store (h : Nat) (S : Snapshot) :
    (s.setSnapshot h S).store = storeInsert s.store h S := rfl
@[simp] theorem State.setSnapshot_next (h : Nat) (S : Snapshot) : (s.setSnapshot h S).next = s.next := rfl
@[simp] theorem State.setSnapshot_trace (h : Nat) (S : Snapshot) :
    (s.setSnapshot h S).trace = s.trace := rfl
@[simp] theorem State.setSnapshot_pending (h : Nat) (S : Snapshot) :
    (s.setSnapshot h S).pending = s.pending := rfl
@[simp] theorem State.setSnapshot_responses (h : Nat) (S : Snapshot) :
    (s.setSnapshot h S).responses = s.responses := rfl
@[simp] theorem State.setSnapshot_resolves (h : Nat) (S : Snapshot) :
    (s.setSnapshot h S).resolves = s.resolves := rfl
@[simp] theorem State.setSnapshot_slotOut (h : Nat) (S : Snapshot) :
    (s.setSnapshot h S).slotOut = s.slotOut := rfl
@[simp] theorem State.setSnapshot_oracle (h : Nat) (S : Snapshot) :
    (s.setSnapshot h S).oracle = s.oracle := rfl
@[simp] theorem State.setSnapshot_draws (h : Nat) (S : Snapshot) :
    (s.setSnapshot h S).draws = s.draws := rfl

/-! `State.alloc` -/

@[simp] theorem State.alloc_cfg (S : Snapshot) : (s.alloc S).cfg = s.cfg := rfl
@[simp] theorem State.alloc_store (S : Snapshot) : (s.alloc S).store = storeInsert s.store s.next S := rfl
@[simp] theorem State.alloc_next (S : Snapshot) : (s.alloc S).next = s.next + 1 := rfl
@[simp] theorem State.alloc_trace (S : Snapshot) : (s.alloc S).trace = s.trace := rfl
@[simp] theorem State.alloc_pending (S : Snapshot) : (s.alloc S).pending = s.pending := rfl
@[simp] theorem State.alloc_responses (S : Snapshot) : (s.alloc S).responses = s.responses := rfl
@[simp] theorem State.alloc_resolves (S : Snapshot) : (s.alloc S).resolves = s.resolves := rfl
@[simp] theorem State.alloc_slotOut (S : Snapshot) : (s.alloc S).slotOut = s.slotOut := rfl
@[simp] theorem State.alloc_oracle (S : Snapshot) : (s.alloc S).oracle = s.oracle := rfl
@[simp] theorem State.alloc_draws (S : Snapshot) : (s.alloc S).draws = s.draws := rfl

/-! `State.afterRead` -/

@[simp] theorem State.afterRead_cfg (tid : ThreadId) : (s.afterRead tid).cfg = s.cfg := rfl
@[simp] theorem State.afterRead_store (tid : ThreadId) : (s.afterRead tid).store = s.store := rfl
@[simp] theorem State.afterRead_next (tid : ThreadId) : (s.afterRead tid).next = s.next := rfl
@[simp] theorem State.afterRead_trace (tid : ThreadId) :
    (s.afterRead tid).trace = s.trace ++ [.read tid (s.readAnswer tid)] := rfl
@[simp] theorem State.afterRead_pending (tid : ThreadId) : (s.afterRead tid).pending = s.pending := rfl
@[simp] theorem State.afterRead_responses (tid : ThreadId) :
    (s.afterRead tid).responses = s.responses := rfl
@[simp] theorem State.afterRead_resolves (tid : ThreadId) : (s.afterRead tid).resolves = s.resolves := rfl
@[simp] theorem State.afterRead_slotOut (tid : ThreadId) : (s.afterRead tid).slotOut = s.slotOut := rfl
@[simp] theorem State.afterRead_oracle (tid : ThreadId) :
    (s.afterRead tid).oracle = { s.oracle with reads := s.oracle.reads.tail } := rfl
@[simp] theorem State.afterRead_draws (tid : ThreadId) : (s.afterRead tid).draws = s.draws + 1 := rfl

/-! `State.afterWrite` -/

@[simp] theorem State.afterWrite_cfg (tid : ThreadId) (b : List Byte) :
    (s.afterWrite tid b).cfg = s.cfg := rfl
@[simp] theorem State.afterWrite_store (tid : ThreadId) (b : List Byte) :
    (s.afterWrite tid b).store = s.store := rfl
@[simp] theorem State.afterWrite_next (tid : ThreadId) (b : List Byte) :
    (s.afterWrite tid b).next = s.next := rfl
@[simp] theorem State.afterWrite_trace (tid : ThreadId) (b : List Byte) :
    (s.afterWrite tid b).trace = s.trace ++ [.write tid b (s.writeAnswer tid b)] := rfl
@[simp] theorem State.afterWrite_pending (tid : ThreadId) (b : List Byte) :
    (s.afterWrite tid b).pending = s.pending := rfl
@[simp] theorem State.afterWrite_responses (tid : ThreadId) (b : List Byte) :
    (s.afterWrite tid b).responses = s.responses := rfl
@[simp] theorem State.afterWrite_resolves (tid : ThreadId) (b : List Byte) :
    (s.afterWrite tid b).resolves = s.resolves := rfl
@[simp] theorem State.afterWrite_slotOut (tid : ThreadId) (b : List Byte) :
    (s.afterWrite tid b).slotOut = s.slotOut := rfl
@[simp] theorem State.afterWrite_oracle (tid : ThreadId) (b : List Byte) :
    (s.afterWrite tid b).oracle = { s.oracle with writes := s.oracle.writes.tail } := rfl
@[simp] theorem State.afterWrite_draws (tid : ThreadId) (b : List Byte) :
    (s.afterWrite tid b).draws = s.draws + 1 := rfl

/-! `State.afterReadFp` -/

@[simp] theorem State.afterReadFp_cfg (tid : ThreadId) : (s.afterReadFp tid).cfg = s.cfg := rfl
@[simp] theorem State.afterReadFp_store (tid : ThreadId) : (s.afterReadFp tid).store = s.store := rfl
@[simp] theorem State.afterReadFp_next (tid : ThreadId) : (s.afterReadFp tid).next = s.next := rfl
@[simp] theorem State.afterReadFp_trace (tid : ThreadId) :
    (s.afterReadFp tid).trace = s.trace ++ [.readFp tid (s.fpAnswer tid)] := rfl
@[simp] theorem State.afterReadFp_pending (tid : ThreadId) : (s.afterReadFp tid).pending = s.pending := rfl
@[simp] theorem State.afterReadFp_responses (tid : ThreadId) :
    (s.afterReadFp tid).responses = s.responses := rfl
@[simp] theorem State.afterReadFp_resolves (tid : ThreadId) :
    (s.afterReadFp tid).resolves = s.resolves := rfl
@[simp] theorem State.afterReadFp_slotOut (tid : ThreadId) : (s.afterReadFp tid).slotOut = s.slotOut := rfl
@[simp] theorem State.afterReadFp_oracle (tid : ThreadId) :
    (s.afterReadFp tid).oracle = { s.oracle with fpReads := s.oracle.fpReads.tail } := rfl
@[simp] theorem State.afterReadFp_draws (tid : ThreadId) : (s.afterReadFp tid).draws = s.draws + 1 := rfl

/-! `State.afterResolve` -/

@[simp] theorem State.afterResolve_cfg (a : Word) : (s.afterResolve a).cfg = s.cfg := rfl
@[simp] theorem State.afterResolve_store (a : Word) : (s.afterResolve a).store = s.store := rfl
@[simp] theorem State.afterResolve_next (a : Word) : (s.afterResolve a).next = s.next := rfl
@[simp] theorem State.afterResolve_trace (a : Word) : (s.afterResolve a).trace = s.trace := rfl
@[simp] theorem State.afterResolve_pending (a : Word) : (s.afterResolve a).pending = s.pending := rfl
@[simp] theorem State.afterResolve_responses (a : Word) : (s.afterResolve a).responses = s.responses := rfl
@[simp] theorem State.afterResolve_resolves (a : Word) :
    (s.afterResolve a).resolves = s.resolves ++ [⟨a, s.resolveAnswer a⟩] := rfl
@[simp] theorem State.afterResolve_slotOut (a : Word) : (s.afterResolve a).slotOut = s.slotOut := rfl
@[simp] theorem State.afterResolve_oracle (a : Word) :
    (s.afterResolve a).oracle = { s.oracle with resolves := s.oracle.resolves.tail } := rfl
@[simp] theorem State.afterResolve_draws (a : Word) : (s.afterResolve a).draws = s.draws + 1 := rfl

/-! `State.popEvent` -/

@[simp] theorem State.popEvent_cfg : (s.popEvent).cfg = s.cfg := rfl
@[simp] theorem State.popEvent_store : (s.popEvent).store = s.store := rfl
@[simp] theorem State.popEvent_next : (s.popEvent).next = s.next := rfl
@[simp] theorem State.popEvent_trace : (s.popEvent).trace = s.trace := rfl
@[simp] theorem State.popEvent_pending : (s.popEvent).pending = s.pending.tail := rfl
@[simp] theorem State.popEvent_responses : (s.popEvent).responses = s.responses := rfl
@[simp] theorem State.popEvent_resolves : (s.popEvent).resolves = s.resolves := rfl
@[simp] theorem State.popEvent_slotOut : (s.popEvent).slotOut = s.slotOut := rfl
@[simp] theorem State.popEvent_oracle : (s.popEvent).oracle = s.oracle := rfl
@[simp] theorem State.popEvent_draws : (s.popEvent).draws = s.draws := rfl

/-! `State.setSlotOut` -/

@[simp] theorem State.setSlotOut_cfg (o : SlotOut) : (s.setSlotOut o).cfg = s.cfg := rfl
@[simp] theorem State.setSlotOut_store (o : SlotOut) : (s.setSlotOut o).store = s.store := rfl
@[simp] theorem State.setSlotOut_next (o : SlotOut) : (s.setSlotOut o).next = s.next := rfl
@[simp] theorem State.setSlotOut_trace (o : SlotOut) : (s.setSlotOut o).trace = s.trace := rfl
@[simp] theorem State.setSlotOut_pending (o : SlotOut) : (s.setSlotOut o).pending = s.pending := rfl
@[simp] theorem State.setSlotOut_responses (o : SlotOut) : (s.setSlotOut o).responses = s.responses := rfl
@[simp] theorem State.setSlotOut_resolves (o : SlotOut) : (s.setSlotOut o).resolves = s.resolves := rfl
@[simp] theorem State.setSlotOut_slotOut (o : SlotOut) : (s.setSlotOut o).slotOut = o := rfl
@[simp] theorem State.setSlotOut_oracle (o : SlotOut) : (s.setSlotOut o).oracle = s.oracle := rfl
@[simp] theorem State.setSlotOut_draws (o : SlotOut) : (s.setSlotOut o).draws = s.draws := rfl

/-! `State.resumeThread` -/

@[simp] theorem State.resumeThread_cfg (tid : ThreadId) : (s.resumeThread tid).cfg = s.cfg := rfl
@[simp] theorem State.resumeThread_store (tid : ThreadId) :
    (s.resumeThread tid).store = s.store.map fun hS => (hS.1, resumeSnapshot s.draws tid hS.1 hS.2) := rfl
@[simp] theorem State.resumeThread_next (tid : ThreadId) : (s.resumeThread tid).next = s.next := rfl
@[simp] theorem State.resumeThread_trace (tid : ThreadId) : (s.resumeThread tid).trace = s.trace := rfl
@[simp] theorem State.resumeThread_pending (tid : ThreadId) :
    (s.resumeThread tid).pending = s.pending := rfl
@[simp] theorem State.resumeThread_responses (tid : ThreadId) :
    (s.resumeThread tid).responses = s.responses := rfl
@[simp] theorem State.resumeThread_resolves (tid : ThreadId) :
    (s.resumeThread tid).resolves = s.resolves := rfl
@[simp] theorem State.resumeThread_slotOut (tid : ThreadId) :
    (s.resumeThread tid).slotOut = s.slotOut := rfl
@[simp] theorem State.resumeThread_oracle (tid : ThreadId) : (s.resumeThread tid).oracle = s.oracle := rfl
@[simp] theorem State.resumeThread_draws (tid : ThreadId) : (s.resumeThread tid).draws = s.draws + 1 := rfl

/-! The reset state (70_reset_and_hazards R197). -/

@[simp] theorem State.resetWith_cfg (c : Cfg) : (State.resetWith c).cfg = c := rfl
@[simp] theorem State.resetWith_store (c : Cfg) : (State.resetWith c).store = [] := rfl
@[simp] theorem State.resetWith_next (c : Cfg) : (State.resetWith c).next = 0 := rfl
@[simp] theorem State.resetWith_trace (c : Cfg) : (State.resetWith c).trace = [] := rfl
@[simp] theorem State.resetWith_pending (c : Cfg) : (State.resetWith c).pending = [] := rfl
@[simp] theorem State.resetWith_responses (c : Cfg) : (State.resetWith c).responses = [] := rfl
@[simp] theorem State.resetWith_resolves (c : Cfg) : (State.resetWith c).resolves = [] := rfl
@[simp] theorem State.resetWith_slotOut (c : Cfg) : (State.resetWith c).slotOut = .idle := rfl
@[simp] theorem State.resetWith_draws (c : Cfg) : (State.resetWith c).draws = 0 := rfl

end Sys2Proof.Machine
end

