-- ==== Sys2Proof/Laws/Store.lean ====
section
/-! SUPPORT. Laws of the snapshot store: a read after a write, and the canonical form (log 7). -/

namespace Sys2Proof.Laws

open Sys2Proof.Machine Sys2Proof.Safety

theorem lookup_storeInsert_same (st : Store) (h : Nat) (S : Snapshot) :
    (storeInsert st h S).lookup h = some S := by
  induction st with
  | nil => simp [storeInsert]
  | cons kT rest ih =>
    obtain ⟨k, T⟩ := kT
    unfold storeInsert
    split
    · simp
    · split
      · simp
      · have hk : (h == k) = false := by simpa using ‹¬ h = k›
        simp [List.lookup_cons, hk, ih]

theorem lookup_storeInsert_other (st : Store) {h j : Nat} (S : Snapshot) (hj : j ≠ h) :
    (storeInsert st h S).lookup j = st.lookup j := by
  have hjh : (j == h) = false := by simpa using hj
  induction st with
  | nil => simp [storeInsert, List.lookup_cons, hjh]
  | cons kT rest ih =>
    obtain ⟨k, T⟩ := kT
    unfold storeInsert
    split
    · simp [List.lookup_cons, hjh]
    · split
      · subst ‹h = k›; simp [List.lookup_cons, hjh]
      · simp [List.lookup_cons, ih]

/-- Every pair of the store after an insertion is the new one or was there before under another handle. -/
theorem mem_storeInsert {st : Store} {h : Nat} {S : Snapshot} {kT : Nat × Snapshot}
    (hm : kT ∈ storeInsert st h S) : kT = (h, S) ∨ kT ∈ st := by
  induction st with
  | nil => left; simpa [storeInsert] using hm
  | cons lU rest ih =>
    obtain ⟨l, U⟩ := lU
    unfold storeInsert at hm
    split at hm
    · rcases List.mem_cons.1 hm with e | e
      · exact .inl e
      · exact .inr e
    · split at hm
      · rcases List.mem_cons.1 hm with e | e
        · exact .inl e
        · exact .inr (List.mem_cons_of_mem _ e)
      · rcases List.mem_cons.1 hm with e | e
        · exact .inr (e ▸ List.mem_cons_self)
        · rcases ih e with r | r
          · exact .inl r
          · exact .inr (List.mem_cons_of_mem _ r)

/-- The store stays in its canonical form. -/
theorem storeInsert_sorted {st : Store} (hs : StoreSorted st) (h : Nat) (S : Snapshot) :
    StoreSorted (storeInsert st h S) := by
  unfold StoreSorted at *
  induction st with
  | nil => simp [storeInsert]
  | cons kT rest ih =>
    obtain ⟨k, T⟩ := kT
    rw [List.map_cons, List.pairwise_cons] at hs
    unfold storeInsert
    split
    · rename_i hk
      rw [List.map_cons, List.pairwise_cons]
      refine ⟨fun a ha => ?_, by simpa [List.pairwise_cons] using hs⟩
      rw [List.map_cons] at ha
      rcases List.mem_cons.1 ha with e | e
      · exact e ▸ hk
      · exact Nat.lt_trans hk (hs.1 a e)
    · split
      · subst ‹h = k›
        simpa [List.pairwise_cons] using hs
      · rw [List.map_cons, List.pairwise_cons]
        refine ⟨fun a ha => ?_, ih hs.2⟩
        obtain ⟨lU, hm, rfl⟩ := List.mem_map.1 ha
        rcases mem_storeInsert hm with e | e
        · subst e; exact Nat.lt_of_le_of_ne (Nat.le_of_not_lt ‹_›) (Ne.symm ‹_›)
        · exact hs.1 _ (List.mem_map.2 ⟨_, e, rfl⟩)

/-- Writing a handle the sorted store already has changes no key. -/
theorem keys_storeInsert_known {st : Store} (hs : StoreSorted st) {h : Nat} (S : Snapshot)
    (hm : h ∈ st.map (·.1)) : (storeInsert st h S).map (·.1) = st.map (·.1) := by
  unfold StoreSorted at hs
  induction st with
  | nil => simp at hm
  | cons kT rest ih =>
    obtain ⟨k, T⟩ := kT
    rw [List.map_cons, List.pairwise_cons] at hs
    rw [List.map_cons] at hm
    unfold storeInsert
    split
    · rename_i hk
      rcases List.mem_cons.1 hm with e | e
      · exact absurd e (Nat.ne_of_lt hk)
      · exact absurd (Nat.lt_trans hk (hs.1 h e)) (Nat.lt_irrefl h)
    · split
      · subst ‹h = k›; simp
      · have : h ∈ rest.map (·.1) := by
          rcases List.mem_cons.1 hm with e | e
          · exact absurd e ‹¬ h = k›
          · exact e
        simp [ih hs.2 this]

/-- Writing a handle above every other appends it. -/
theorem storeInsert_above {st : Store} {h : Nat} (S : Snapshot) (hab : ∀ k ∈ st.map (·.1), k < h) :
    storeInsert st h S = st ++ [(h, S)] := by
  induction st with
  | nil => rfl
  | cons kT rest ih =>
    obtain ⟨k, T⟩ := kT
    have hk : k < h := hab k (by simp)
    unfold storeInsert
    rw [if_neg (by omega), if_neg (by omega), ih (fun j hj => hab j (List.mem_cons_of_mem _ hj))]
    rfl

/-- In a sorted store a lookup finds exactly the pairs listed. -/
theorem lookup_eq_some_iff {st : Store} (hs : StoreSorted st) {h : Nat} {S : Snapshot} :
    st.lookup h = some S ↔ (h, S) ∈ st := by
  unfold StoreSorted at hs
  induction st with
  | nil => simp
  | cons kT rest ih =>
    obtain ⟨k, T⟩ := kT
    rw [List.map_cons, List.pairwise_cons] at hs
    by_cases hk : h = k
    · subst hk
      simp only [List.lookup_cons, beq_self_eq_true, List.mem_cons, Prod.mk.injEq, true_and]
      refine ⟨fun e => .inl (by simpa using e.symm), fun e => ?_⟩
      rcases e with rfl | e
      · rfl
      · exact absurd (hs.1 h (List.mem_map.2 ⟨_, e, rfl⟩)) (Nat.lt_irrefl h)
    · have hb : (h == k) = false := by simpa using hk
      simp [List.lookup_cons, hb, ih hs.2, hk]

/-- A lookup that finds something finds a listed handle. -/
theorem mem_keys_of_lookup {st : Store} {h : Nat} {S : Snapshot} (hl : st.lookup h = some S) :
    (h, S) ∈ st := by
  induction st with
  | nil => simp at hl
  | cons kT rest ih =>
    obtain ⟨k, T⟩ := kT
    by_cases hk : h = k
    · subst hk
      simp at hl
      simp [hl]
    · have hb : (h == k) = false := by simpa using hk
      simp only [List.lookup_cons, hb] at hl
      exact List.mem_cons_of_mem _ (ih hl)

/-- Counting over the store after a write to a handle it already has: the old snapshot's share is replaced by
the new one's. -/
theorem countP_storeInsert_known {st : Store} (hs : StoreSorted st) (p : Nat × Snapshot → Bool) {h : Nat}
    {S T : Snapshot} (hl : st.lookup h = some S) :
    (storeInsert st h T).countP p + (if p (h, S) then 1 else 0) =
      st.countP p + (if p (h, T) then 1 else 0) := by
  unfold StoreSorted at hs
  induction st with
  | nil => simp at hl
  | cons kU rest ih =>
    obtain ⟨k, U⟩ := kU
    rw [List.map_cons, List.pairwise_cons] at hs
    by_cases hk : h = k
    · subst hk
      simp only [List.lookup_cons, beq_self_eq_true, Option.some.injEq] at hl
      subst hl
      simp only [storeInsert, Nat.lt_irrefl, if_false, if_true, List.countP_cons]
      omega
    · have hb : (h == k) = false := by simpa using hk
      simp only [List.lookup_cons, hb] at hl
      have hlt : k < h := hs.1 h (List.mem_map.2 ⟨_, mem_keys_of_lookup hl, rfl⟩)
      have hrest := ih hs.2 hl
      simp only [storeInsert, if_neg (Nat.not_lt_of_lt hlt), if_neg hk, List.countP_cons]
      omega

/-- A lookup through a map that keeps the keys. -/
theorem lookup_map_values (st : Store) (f : Nat → Snapshot → Snapshot) (h : Nat) :
    (st.map fun hS => (hS.1, f hS.1 hS.2)).lookup h = (st.lookup h).map (f h) := by
  induction st with
  | nil => rfl
  | cons kT rest ih =>
    obtain ⟨k, T⟩ := kT
    by_cases hk : h = k
    · subst hk; simp
    · have hb : (h == k) = false := by simpa using hk
      simp [List.lookup_cons, hb, ih]

/-- Sequential handles are a sorted store. -/
theorem handles_sorted {s : State} (h : HandlesSequential s) : StoreSorted s.store := by
  unfold StoreSorted
  rw [show s.store.map (·.1) = List.range s.next from h]
  exact List.pairwise_lt_range

/-- With sequential handles, a handle is known exactly when it is below `next`. -/
theorem handles_known_iff {s : State} (hq : HandlesSequential s) (h : Nat) :
    (s.snapshot h).isSome ↔ h < s.next := by
  have hk : ∀ j, j ∈ s.store.map (·.1) ↔ j < s.next := fun j => by
    rw [show s.store.map (·.1) = List.range s.next from hq, List.mem_range]
  rw [← hk h, Option.isSome_iff_exists]
  constructor
  · rintro ⟨S, hS⟩
    exact List.mem_map.2 ⟨_, mem_keys_of_lookup hS, rfl⟩
  · intro hm
    obtain ⟨⟨k, S⟩, hmem, rfl⟩ := List.mem_map.1 hm
    exact ⟨S, (lookup_eq_some_iff (handles_sorted hq)).2 hmem⟩

end Sys2Proof.Laws
end

