-- ==== Sys2Proof/Laws/Ops.lean ====
section
/-! SUPPORT. What each shared operation does, said once. -/

namespace Sys2Proof.Machine

open Sys2Proof.Laws

variable (s : State)

/-! Looking a snapshot up after an update. -/

@[simp] theorem State.snapshot_respond (st : Status) (p : Payload) (h : Nat) :
    (s.respond st p).snapshot h = s.snapshot h := rfl

@[simp] theorem State.snapshot_ok (p : Payload) (h : Nat) : (s.ok p).snapshot h = s.snapshot h := rfl

@[simp] theorem State.snapshot_raise (e : Status) (p : Payload) (h : Nat) :
    (s.raise e p).snapshot h = s.snapshot h := rfl

@[simp] theorem State.snapshot_afterRead (tid : ThreadId) (h : Nat) :
    (s.afterRead tid).snapshot h = s.snapshot h := rfl

@[simp] theorem State.snapshot_afterWrite (tid : ThreadId) (b : List Byte) (h : Nat) :
    (s.afterWrite tid b).snapshot h = s.snapshot h := rfl

@[simp] theorem State.snapshot_afterReadFp (tid : ThreadId) (h : Nat) :
    (s.afterReadFp tid).snapshot h = s.snapshot h := rfl

@[simp] theorem State.snapshot_afterResolve (a : Word) (h : Nat) :
    (s.afterResolve a).snapshot h = s.snapshot h := rfl

@[simp] theorem State.snapshot_popEvent (h : Nat) : s.popEvent.snapshot h = s.snapshot h := rfl

@[simp] theorem State.snapshot_setSlotOut (o : SlotOut) (h : Nat) :
    (s.setSlotOut o).snapshot h = s.snapshot h := rfl

@[simp] theorem State.snapshot_resetWith (c : Cfg) (h : Nat) :
    (State.resetWith c).snapshot h = none := rfl

@[simp] theorem State.snapshot_setSnapshot_same (h : Nat) (S : Snapshot) :
    (s.setSnapshot h S).snapshot h = some S :=
  lookup_storeInsert_same s.store h S

theorem State.snapshot_setSnapshot_other {h j : Nat} (S : Snapshot) (hj : j ≠ h) :
    (s.setSnapshot h S).snapshot j = s.snapshot j :=
  lookup_storeInsert_other s.store S hj

@[simp] theorem State.snapshot_alloc_new (S : Snapshot) : (s.alloc S).snapshot s.next = some S :=
  lookup_storeInsert_same s.store s.next S

theorem State.snapshot_alloc_old {j : Nat} (S : Snapshot) (hj : j ≠ s.next) :
    (s.alloc S).snapshot j = s.snapshot j :=
  lookup_storeInsert_other s.store S hj

/-- `Resume` changes each snapshot by itself (60_exceptions R193). -/
theorem State.snapshot_resumeThread (tid : ThreadId) (h : Nat) :
    (s.resumeThread tid).snapshot h = (s.snapshot h).map (resumeSnapshot s.draws tid h) :=
  lookup_map_values s.store (resumeSnapshot s.draws tid) h

/-! The handle check (42_snapshot R156). -/

theorem State.withSnapshot_none {h : Nat} (k : Snapshot → State) (hn : s.snapshot h = none) :
    s.withSnapshot h k = s.raise .invalidHandle := by
  simp [State.withSnapshot, hn]

theorem State.withSnapshot_some {h : Nat} {S : Snapshot} (k : Snapshot → State)
    (hS : s.snapshot h = some S) : s.withSnapshot h k = k S := by
  simp [State.withSnapshot, hS]

/-! The lazy floating-point load (42_snapshot R143). -/

theorem State.fpResolve_of_pending {h : Nat} {S : Snapshot} (hp : S.fp = .pending) :
    s.fpResolve h S =
      (s.afterReadFp S.tid).setSnapshot h { S with fp := .resolved (fpOutcome s.cfg (s.fpAnswer S.tid)) } := by
  simp [State.fpResolve, State.fpResult, hp]

theorem State.fpResolve_of_resolved {h : Nat} {S : Snapshot} {r : FpResult} (hr : S.fp = .resolved r) :
    s.fpResolve h S = s := by
  simp [State.fpResolve, hr]

theorem State.fpResult_of_pending {S : Snapshot} (hp : S.fp = .pending) :
    s.fpResult S = fpOutcome s.cfg (s.fpAnswer S.tid) := by
  simp [State.fpResult, hp]

theorem State.fpResult_of_resolved {S : Snapshot} {r : FpResult} (hr : S.fp = .resolved r) :
    s.fpResult S = r := by
  simp [State.fpResult, hr]

section
variable (h : Nat) (S : Snapshot)

@[simp] theorem State.fpResolve_cfg : (s.fpResolve h S).cfg = s.cfg := by
  unfold State.fpResolve; split <;> rfl
@[simp] theorem State.fpResolve_next : (s.fpResolve h S).next = s.next := by
  unfold State.fpResolve; split <;> rfl
@[simp] theorem State.fpResolve_pending : (s.fpResolve h S).pending = s.pending := by
  unfold State.fpResolve; split <;> rfl
@[simp] theorem State.fpResolve_responses : (s.fpResolve h S).responses = s.responses := by
  unfold State.fpResolve; split <;> rfl
@[simp] theorem State.fpResolve_resolves : (s.fpResolve h S).resolves = s.resolves := by
  unfold State.fpResolve; split <;> rfl
@[simp] theorem State.fpResolve_slotOut : (s.fpResolve h S).slotOut = s.slotOut := by
  unfold State.fpResolve; split <;> rfl
end

/-- After `fpResolve(h)` the snapshot differs in its floating-point state only. -/
theorem State.snapshot_fpResolve_same {h : Nat} {S : Snapshot} (hS : s.snapshot h = some S) :
    (s.fpResolve h S).snapshot h = some { S with fp := .resolved (s.fpResult S) } := by
  cases hf : S.fp with
  | pending => rw [s.fpResolve_of_pending hf, s.fpResult_of_pending hf]; simp
  | resolved r =>
    rw [s.fpResolve_of_resolved hf, s.fpResult_of_resolved hf, hS, ← hf]

/-- `fpResolve(h)` touches no other snapshot. -/
theorem State.snapshot_fpResolve_other {h j : Nat} (S : Snapshot) (hj : j ≠ h) :
    (s.fpResolve h S).snapshot j = s.snapshot j := by
  unfold State.fpResolve
  split
  · rw [State.snapshot_setSnapshot_other _ _ hj]; rfl
  · rfl

/-- `fpResolve(h)` of a known handle keeps the set of handles. -/
theorem State.keys_fpResolve {h : Nat} {S : Snapshot} (hs : Safety.StoreSorted s.store)
    (hS : s.snapshot h = some S) : (s.fpResolve h S).store.map (·.1) = s.store.map (·.1) := by
  unfold State.fpResolve
  split
  · exact keys_storeInsert_known hs _ (List.mem_map.2 ⟨_, mem_keys_of_lookup hS, rfl⟩)
  · rfl

/-! The write-back (42_snapshot R152). -/

theorem State.writeBack_unsupported {h : Nat} {S : Snapshot} {which : MutableReg} {v : Word}
    (hm : isMutable s.cfg which = false) :
    s.writeBack h S which v = s.raise .unsupportedRegisterOperation := by
  simp [State.writeBack, hm]

theorem State.writeBack_ok {h : Nat} {S : Snapshot} {which : MutableReg} {v : Word}
    (hm : isMutable s.cfg which = true)
    (ha : s.writeAnswer S.tid (gprSerialize s.cfg (writeSlot S.reg (mutableSlot s.cfg which) v)) = .ok) :
    s.writeBack h S which v =
      ((s.afterWrite S.tid (gprSerialize s.cfg (writeSlot S.reg (mutableSlot s.cfg which) v))).setSnapshot h
        { S with reg := writeSlot S.reg (mutableSlot s.cfg which) v }).ok .none := by
  simp [State.writeBack, hm, ha]

theorem State.writeBack_failed {h : Nat} {S : Snapshot} {which : MutableReg} {v : Word} {e : TransportErr}
    (hm : isMutable s.cfg which = true)
    (ha : s.writeAnswer S.tid (gprSerialize s.cfg (writeSlot S.reg (mutableSlot s.cfg which) v)) = .err e) :
    s.writeBack h S which v =
      ((s.afterWrite S.tid (gprSerialize s.cfg (writeSlot S.reg (mutableSlot s.cfg which) v))).setSnapshot h
        { S with
          reg := writeSlot S.reg (mutableSlot s.cfg which)
            (s.drawnAfterFailure (readSlot S.reg (mutableSlot s.cfg which)) v) }).raise
        .registerTransportError (.cause (.transport e)) := by
  simp [State.writeBack, hm, ha]

/-- The drawn value is one of the two (R152). -/
theorem State.drawnAfterFailure_cases (old new : Word) :
    s.drawnAfterFailure old new = old ∨ s.drawnAfterFailure old new = new := by
  unfold State.drawnAfterFailure; split
  · exact .inr rfl
  · exact .inl rfl

/-! The operand descriptor engine (40_operands R106). -/

/-- A descriptor run as an instruction puts the engine's result on the output wire, and does nothing else. -/
theorem exec_descriptor (d : Desc) (w : Word32) (prev : Option SlotValue) :
    exec (entryInstr (.kind d) w prev) s = .next (s.setSlotOut (slotOutOf (decodeSlot d w prev))) := by
  cases d <;> rfl

/-! Register slots (10_state R29, R31). -/

theorem readSlot_writeSlot_other {f : RegFile} {r q : RegSel} (v : Word) (hq : q ≠ r) :
    readSlot (writeSlot f r v) q = readSlot f q := by
  cases r <;> cases q <;> simp_all [readSlot, writeSlot, List.getD_eq_getElem?_getD, List.getElem?_set]
  all_goals
    rename_i i j
    have : i ≠ j := fun e => hq e.symm
    simp [this]

theorem readSlot_writeSlot_same {c : Cfg} {f : RegFile} {r : RegSel} (v : Word)
    (hf : Safety.RegShape c f) (hr : hasSlot c r = true) : readSlot (writeSlot f r v) r = v := by
  obtain ⟨h1, h2⟩ := hf
  cases r with
  | gpr i =>
    have hi : i < f.gpr.length := by simpa [hasSlot, h1] using hr
    simp [readSlot, writeSlot, hi]
  | special j =>
    have hj : j < f.special.length := by simpa [hasSlot, h2] using hr
    simp [readSlot, writeSlot, hj]

theorem writeSlot_shape {c : Cfg} {f : RegFile} (r : RegSel) (v : Word) (hf : Safety.RegShape c f) :
    Safety.RegShape c (writeSlot f r v) := by
  cases r <;> simpa [Safety.RegShape, writeSlot] using hf

theorem gprParse_shape (c : Cfg) (bytes : List Byte) : Safety.RegShape c (gprParse c bytes) :=
  Laws.regFileOf_shape c _

theorem drawnRegs_shape {c : Cfg} {f : RegFile} (draw h : Nat) (hf : Safety.RegShape c f) :
    Safety.RegShape c (drawnRegs draw h f) := by
  simpa [Safety.RegShape, drawnRegs] using hf

/-- A loaded block has the configuration's sizes (10_state R38). -/
theorem fpOutcome_shape (c : Cfg) (a : FpAnswer) : Safety.FpShape c (.resolved (fpOutcome c a)) := by
  cases a with
  | ok bytes =>
    simp only [fpOutcome]
    split
    · refine ⟨by simp [fpParse], by simpa [fpParse], fun x hx => ?_⟩
      obtain ⟨k, -, rfl⟩ := List.mem_map.1 hx
      exact Nat.mod_lt _ (Nat.two_pow_pos _)
    · trivial
  | notAvailable => trivial
  | err e => trivial

end Sys2Proof.Machine
end

