-- ==== Sys2Proof/Laws/Effects.lean ====
section
/-! SUPPORT. Everything an instruction, and a step, can do to the state, said once: `exec_effect` and
`step_cases`. Statements about every instruction follow by cases on `Effect`. -/

namespace Sys2Proof.Laws

open Sys2Proof.Machine Sys2Proof.Safety

/-- What one instruction can make of a state. -/
inductive Effect (s : State) : State → Prop
  /-- A response and nothing else. -/
  | responded (st : Status) (p : Payload) (hst : st ≠ .floatingPointUnavailable) :
      Effect s (s.respond st p)
  /-- One Resolve call, then a response. -/
  | located (a : Word) (p : Payload) : Effect s ((s.afterResolve a).ok p)
  /-- A TRead that gave no snapshot. -/
  | readFailed (tid : ThreadId) (p : Payload) :
      Effect s ((s.afterRead tid).raise .registerTransportError p)
  /-- A TRead that gave a live snapshot. -/
  | loaded (tid : ThreadId) (bytes : List Byte) (p : Payload) :
      Effect s (((s.afterRead tid).alloc ⟨tid, gprParse s.cfg bytes, .pending, true⟩).ok p)
  /-- The floating-point state of a snapshot resolved, and a response. -/
  | fpResolved (h : Nat) (S : Snapshot) (hS : s.snapshot h = some S) (st : Status) (p : Payload)
      (hst : st ≠ .floatingPointUnavailable) : Effect s ((s.fpResolve h S).respond st p)
  /-- The floating-point state of a snapshot resolved, and an owned copy made. -/
  | copied (h : Nat) (S : Snapshot) (hS : s.snapshot h = some S) (p : Payload) :
      Effect s (((s.fpResolve h S).alloc ⟨S.tid, S.reg, .resolved (s.fpResult S), false⟩).ok p)
  /-- A TWrite, one slot of the snapshot changed, and a response. -/
  | written (h : Nat) (S : Snapshot) (hS : s.snapshot h = some S) (which : MutableReg) (x : Word)
      (bytes : List Byte) (st : Status) (p : Payload) (hst : st ≠ .floatingPointUnavailable) :
      Effect s (((s.afterWrite S.tid bytes).setSnapshot h
        { S with reg := writeSlot S.reg (mutableSlot s.cfg which) x }).respond st p)
  /-- The engine's output wire. -/
  | slot (o : SlotOut) : Effect s (s.setSlotOut o)

theorem withSnapshot_effect {s : State} {h : Nat} {k : Snapshot → State}
    (hk : ∀ S, s.snapshot h = some S → Effect s (k S)) : Effect s (s.withSnapshot h k) := by
  unfold State.withSnapshot
  split
  · exact .responded _ _ (by decide)
  · exact hk _ ‹_›

theorem writeBack_effect {s : State} {h : Nat} {S : Snapshot} (hS : s.snapshot h = some S)
    (which : MutableReg) (v : Word) : Effect s (s.writeBack h S which v) := by
  unfold State.writeBack
  split
  · dsimp only
    split
    · exact .written h S hS which v _ _ _ (by decide)
    · exact .written h S hS which _ _ _ _ (by decide)
  · exact .responded _ _ (by decide)

theorem locate_effect (s : State) (t : Option Word) (p : Payload) : Effect s ((s.afterLocate t).ok p) := by
  cases t with
  | none => exact .responded _ _ (by decide)
  | some a => exact .located a p

theorem failureStatus_legal (e : DecodeFailure) : failureStatus e ≠ .floatingPointUnavailable := by
  cases e <;> decide

/-- Every instruction answers a next state, and this is everything that state can be. -/
theorem exec_effect (i : Instr) (s : State) : ∃ t, exec i s = .next t ∧ Effect s t := by
  cases i with
  | decode bytes =>
    refine ⟨_, rfl, ?_⟩
    split
    · exact .responded _ _ (by decide)
    · exact .responded _ _ (failureStatus_legal _)
  | classify inst => exact ⟨_, rfl, .responded _ _ (by decide)⟩
  | resolveTarget inst addr hOpt cur =>
    refine ⟨_, rfl, ?_⟩
    split
    · exact locate_effect s _ _
    · exact .responded _ _ (by decide)
  | decodeOne bytes addr hOpt cur =>
    refine ⟨_, rfl, ?_⟩
    split
    · split
      · exact .responded _ _ (failureStatus_legal _)
      · exact locate_effect s _ _
    · exact .responded _ _ (by decide)
  | matchPrologue ops => exact ⟨_, rfl, .responded _ _ (by decide)⟩
  | loadSnapshot tid =>
    refine ⟨_, rfl, ?_⟩
    split
    · exact .readFailed tid _
    · split
      · exact .loaded tid _ _
      · exact .readFailed tid _
  | asRegisterList includeFp h =>
    refine ⟨_, rfl, withSnapshot_effect fun S hS => ?_⟩
    split
    · split <;> exact .fpResolved h S hS _ _ (by decide)
    · exact .responded _ _ (by decide)
  | programCounter h => exact ⟨_, rfl, withSnapshot_effect fun S _ => .responded _ _ (by decide)⟩
  | stackPointer h => exact ⟨_, rfl, withSnapshot_effect fun S _ => .responded _ _ (by decide)⟩
  | framePointer h => exact ⟨_, rfl, withSnapshot_effect fun S _ => .responded _ _ (by decide)⟩
  | get h idx =>
    refine ⟨_, rfl, withSnapshot_effect fun S _ => ?_⟩
    split <;> exact .responded _ _ (by decide)
  | copy h =>
    refine ⟨_, rfl, withSnapshot_effect fun S hS => ?_⟩
    split
    · exact .fpResolved h S hS _ _ (by decide)
    · exact ‹s.fpResult S = _› ▸ .copied h S hS (.handle s.next)
    · exact ‹s.fpResult S = _› ▸ .copied h S hS (.handle s.next)
  | setPc h v => exact ⟨_, rfl, withSnapshot_effect fun S hS => writeBack_effect hS .pc v⟩
  | setSp h v => exact ⟨_, rfl, withSnapshot_effect fun S hS => writeBack_effect hS .sp v⟩
  | setDx h v => exact ⟨_, rfl, withSnapshot_effect fun S _ => .responded _ _ (by decide)⟩
  | descNone w prev => exact ⟨_, rfl, .slot _⟩
  | integer d w prev => exact ⟨_, rfl, .slot _⟩
  | mappedInteger d w prev => exact ⟨_, rfl, .slot _⟩
  | mostSignificantBit d w prev => exact ⟨_, rfl, .slot _⟩
  | register d w prev => exact ⟨_, rfl, .slot _⟩
  | optionalRegister d w prev => exact ⟨_, rfl, .slot _⟩
  | registerPair d w prev => exact ⟨_, rfl, .slot _⟩
  | pcRelative d w prev => exact ⟨_, rfl, .slot _⟩
  | checkAgainstPrevious d w prev => exact ⟨_, rfl, .slot _⟩

theorem effect_of_exec {i : Instr} {s t : State} (h : exec i s = .next t) : Effect s t := by
  obtain ⟨u, hu, he⟩ := exec_effect i s
  rw [hu] at h
  cases h
  exact he

/-- Everything a step that answers a next state can have done: idled, taken a Resume, or taken a packet and
had an instruction's effect. -/
theorem step_cases {s t : State} (h : step s = .next t) :
    (s.pending = [] ∧ t = s) ∨
    (∃ tid rest, s.pending = .resume tid :: rest ∧ t = s.popEvent.resumeThread tid) ∨
    (∃ p rest, s.pending = .packet p :: rest ∧ Effect s.popEvent t) := by
  unfold step at h
  split at h
  · cases h; exact .inl ⟨‹_›, rfl⟩
  · cases h; exact .inr (.inl ⟨_, _, ‹_›, rfl⟩)
  · refine .inr (.inr ⟨_, _, ‹_›, ?_⟩)
    split at h
    · exact effect_of_exec h
    · cases h; exact .responded _ _ (by decide)
    · cases h

end Sys2Proof.Laws
end

