-- ==== Sys2Proof/Laws/PerInstr.lean ====
section
/-! SUPPORT. The per-instruction family `HeaderCanonical`: what an instruction's encoding looks like, one lemma
per constructor. -/

namespace Sys2Proof.Laws

open Sys2Proof.Machine

/-- A command's header has a zero reserved half, and a zero flags byte or, with AS_REGISTER_LIST's code only,
the flag `includeFP` alone (30_encoding R90); a descriptor's tag is not reserved (R82). -/
def canonicalPacket : Packet → Prop
  | .command header _ =>
      headerReserved header = 0 ∧ (headerFlags header = 0 ∨ headerCode header = 0x11 ∧ headerFlags header = 1)
  | .descriptor raw _ _ => raw.tag.toNat ≤ 8

namespace HeaderCanonical

/-- An instruction is encoded canonically. -/
def Statement (i : Instr) : Prop := canonicalPacket (encode i)

theorem decode (bytes : List Byte) :
    Statement (.decode bytes) :=
  ⟨rfl, .inl rfl⟩

theorem classify (inst : Instruction) :
    Statement (.classify inst) :=
  ⟨rfl, .inl rfl⟩

theorem resolveTarget (inst : Instruction) (addr : Word) (hOpt : Option Nat) (cur : ThreadId) :
    Statement (.resolveTarget inst addr hOpt cur) :=
  ⟨rfl, .inl rfl⟩

theorem decodeOne (bytes : List Byte) (addr : Word) (hOpt : Option Nat) (cur : ThreadId) :
    Statement (.decodeOne bytes addr hOpt cur) :=
  ⟨rfl, .inl rfl⟩

theorem matchPrologue (ops : List Opcode) :
    Statement (.matchPrologue ops) :=
  ⟨rfl, .inl rfl⟩

theorem loadSnapshot (tid : ThreadId) :
    Statement (.loadSnapshot tid) :=
  ⟨rfl, .inl rfl⟩

theorem asRegisterList (includeFp : Bool) (h : Nat) :
    Statement (.asRegisterList includeFp h) := by
  cases includeFp <;> exact ⟨rfl, by decide⟩

theorem programCounter (h : Nat) :
    Statement (.programCounter h) :=
  ⟨rfl, .inl rfl⟩

theorem stackPointer (h : Nat) :
    Statement (.stackPointer h) :=
  ⟨rfl, .inl rfl⟩

theorem framePointer (h : Nat) :
    Statement (.framePointer h) :=
  ⟨rfl, .inl rfl⟩

theorem get (h : Nat) (idx : Word) :
    Statement (.get h idx) :=
  ⟨rfl, .inl rfl⟩

theorem copy (h : Nat) :
    Statement (.copy h) :=
  ⟨rfl, .inl rfl⟩

theorem setPc (h : Nat) (v : Word) :
    Statement (.setPc h v) :=
  ⟨rfl, .inl rfl⟩

theorem setSp (h : Nat) (v : Word) :
    Statement (.setSp h v) :=
  ⟨rfl, .inl rfl⟩

theorem setDx (h : Nat) (v : Word) :
    Statement (.setDx h v) :=
  ⟨rfl, .inl rfl⟩

theorem descNone (w : Word32) (prev : Option SlotValue) :
    Statement (.descNone w prev) := by
  simp [Statement, canonicalPacket, encode, encodeEntry]

theorem integer (d : IntegerDesc) (w : Word32) (prev : Option SlotValue) :
    Statement (.integer d w prev) := by
  simp [Statement, canonicalPacket, encode, encodeEntry]

theorem mappedInteger (d : MappedIntegerDesc) (w : Word32) (prev : Option SlotValue) :
    Statement (.mappedInteger d w prev) := by
  simp [Statement, canonicalPacket, encode, encodeEntry]

theorem mostSignificantBit (d : MsbDesc) (w : Word32) (prev : Option SlotValue) :
    Statement (.mostSignificantBit d w prev) := by
  simp [Statement, canonicalPacket, encode, encodeEntry]

theorem register (d : RegisterDesc) (w : Word32) (prev : Option SlotValue) :
    Statement (.register d w prev) := by
  simp [Statement, canonicalPacket, encode, encodeEntry]

theorem optionalRegister (d : RegisterDesc) (w : Word32) (prev : Option SlotValue) :
    Statement (.optionalRegister d w prev) := by
  simp [Statement, canonicalPacket, encode, encodeEntry]

theorem registerPair (d : PairDesc) (w : Word32) (prev : Option SlotValue) :
    Statement (.registerPair d w prev) := by
  simp [Statement, canonicalPacket, encode, encodeEntry]

theorem pcRelative (d : PcRelDesc) (w : Word32) (prev : Option SlotValue) :
    Statement (.pcRelative d w prev) := by
  simp [Statement, canonicalPacket, encode, encodeEntry]

theorem checkAgainstPrevious (d : CheckDesc) (w : Word32) (prev : Option SlotValue) :
    Statement (.checkAgainstPrevious d w prev) := by
  simp [Statement, canonicalPacket, encode, encodeEntry]

end HeaderCanonical

end Sys2Proof.Laws
end

