-- ==== Sys2Proof/Tests/Slice0.lean ====
section
/-! SUPPORT. Tests of the model: ill-formed terms refused, words written out from the spec's encodings, the spec's
vectors (95_test_vectors), and a witness for the hypotheses of every statement that has some. Every expected
result is the spec's. The configuration is EXCFG (95 Part 2) with its register file cut to four
general-purpose registers, of which register 2 is the stack pointer and register 3 the frame pointer. -/

namespace Sys2Proof.Tests

open Sys2Proof.Machine Sys2Proof.Safety

/-! ## The example configuration (95 Part 2) -/

/-- `none`. -/
def no : RawDesc := ⟨0, {}⟩
/-- `Reg(w, lsb)`. -/
def reg (w lsb : Nat) : RawDesc := ⟨4, { lsb := lsb, width := w }⟩
/-- `Int(w, lsb, maxVal, bias, shift)`. -/
def int (w lsb : Nat) (maxVal : Int) (bias : Int := 0) (shift : Nat := 0) : RawDesc :=
  ⟨1, { lsb := lsb, width := w, maxVal := maxVal, bias := bias, shift := shift }⟩
/-- `PcRel(w, lsb, maxVal, bias, shift, alignLog2)`. -/
def pcRel (w lsb : Nat) (maxVal bias : Int) (shift alignLog2 : Nat) : RawDesc :=
  ⟨7, { lsb := lsb, width := w, maxVal := maxVal, bias := bias, shift := shift, alignLog2 := alignLog2 }⟩
/-- `MSB(w, lsb, bias, addLsb, maxSize)`. -/
def msb (w lsb : Nat) (bias : Int) (addLsb : Bool) (maxSize : Nat) : RawDesc :=
  ⟨3, { lsb := lsb, width := w, bias := bias, addLsb := addLsb, maxSize := maxSize }⟩

/-- A row without a predicate. -/
def row (n : Nat) (mask value : Word32) (args : Vector RawDesc 5) : Row :=
  ⟨mask, value, .isa n, args, none⟩

/-- Rows 0 to 7 of the example table. -/
def rowsLow : List Row :=
  [row 0 0xFFFFFFFF 0x0FE00000 #v[no, no, no, no, no],
   row 1 0xFC1FFFFF 0x0C000000 #v[reg 5 21, no, no, no, no],
   row 2 0xFC000000 0x04000000 #v[int 26 0 0x3FFFFFF 0 2, no, no, no, no],
   row 3 0xFC000000 0x08000000 #v[pcRel 26 0 0x1FFFFFF 0 2 2, no, no, no, no],
   row 4 0xFC000000 0x10000000 #v[reg 5 16, reg 5 21, int 16 0 0x7FFF, no, no],
   row 5 0xFC000000 0x14000000 #v[reg 5 21, reg 5 16, pcRel 16 0 0x7FFF 0 2 0, no, no],
   row 6 0xFC00003F 0x18000000 #v[reg 5 16, reg 5 21, int 5 6 31, msb 5 11 0 true 32, no],
   row 7 0xFC000000 0x1C000000
     #v[reg 5 21, ⟨8, { lsb := 16, width := 5, gt := true }⟩, reg 5 11, no, no]]

/-- Rows 8 to 15. -/
def rowsHigh : List Row :=
  [row 8 0xFC000000 0x20000000
     #v[⟨2, { lsb := 0, width := 2, map := [(0, 1), (1, 2), (2, 4)] }⟩, reg 5 21, no, no, no],
   row 9 0xFC000000 0x20000000 #v[int 2 0 3, reg 5 21, no, no, no],
   row 10 0xFC000000 0x24000000
     #v[⟨6, { lsb := 0, width := 2, map1 := [(0, 4), (1, 6), (2, 8), (3, 10)],
              map2 := [(0, 5), (1, 7), (2, 9), (3, 11)] }⟩, no, no, no, no],
   row 11 0xFC000000 0x28000000 #v[reg 5 11, ⟨5, { lsb := 21, width := 5 }⟩, reg 5 16, no, no],
   { row 12 0xFC000000 0x2C000000
       #v[reg 5 21, ⟨4, { cls := .other 0, remap := some [(0, 0)] }⟩, no, no, no] with
     pred := some (.bit 0) },
   row 13 0xFC000000 0x30000000 #v[reg 5 21, int 3 0 7 1, no, no, no],
   row 14 0xFC000000 0x34000000 #v[int 4 0 (-1), no, no, no, no],
   row 15 0xFC00003F 0x18000004 #v[reg 5 16, reg 5 21, int 5 6 31, msb 5 11 0 false 32, no]]

/-- EXCFG with a short register file. -/
def exCfg : Cfg :=
  { isaName := "EXAMPLE"
    opcodeNames := ["EXRET", "EXJR", "EXJ", "EXCALL", "EXADDI", "EXBEQ", "EXEXT", "EXCHK", "EXSCALE",
      "EXSCALE_RAW", "EXMOVP", "EXOR3", "EXMFPC", "EXADDN", "EXNEG", "EXINS"]
    table := rowsLow ++ rowsHigh
    kinds := [(.isa 0, .ret), (.isa 1, .unconditionalJump), (.isa 2, .unconditionalJump), (.isa 3, .call)]
    numGpr := 4, numSpecial := 1
    pcSlot := .special 0, spSlot := .gpr 2, fpSlot := .gpr 3
    regNames := [(.gpr 0, "R0"), (.gpr 1, "R1"), (.gpr 2, "R2"), (.gpr 3, "R3"), (.special 0, "PC")]
    listOrder := [.gpr 0, .gpr 1, .gpr 2, .gpr 3, .special 0]
    gprBlockBytes := 40
    gprLayout := .positions
      [(.gpr 0, List.range' 0 8), (.gpr 1, List.range' 8 8), (.gpr 2, List.range' 16 8),
       (.gpr 3, List.range' 24 8), (.special 0, List.range' 32 8)] 0
    numFpr := 2, fpBits := 64, fpRawBytes := 16
    fpLayout := .positions [List.range' 0 8, List.range' 8 8]
    fpNames := ["F0", "F1"] }

/-! ## Small states -/

/-- The block of 95 section 3.8: R1 = 5, the stack pointer 0x7FFF0000, PC = 0x1000, the others 0. -/
def block : List Byte :=
  List.replicate 8 0 ++ [5, 0, 0, 0, 0, 0, 0, 0] ++ [0, 0, 0xFF, 0x7F, 0, 0, 0, 0] ++
    List.replicate 8 0 ++ [0, 0x10, 0, 0, 0, 0, 0, 0]

/-- The floating-point block `00 01 … 0F`. -/
def rawFp : List Byte := (List.range 16).map (BitVec.ofNat 8)

/-- The registers of `block`. -/
def regs : RegFile := ⟨[0, 5, 0x7FFF0000, 0], [0x1000]⟩

/-- Snapshot 0 of 95 section 3.8 with a floating-point state. -/
def snap (fp : FpState) : Snapshot := ⟨⟨7⟩, regs, fp, true⟩

/-- Reset under a configuration, with answers waiting at the ports. -/
def start (c : Cfg) (o : Oracle := ⟨[], [], [], []⟩) : State := { State.resetWith c with oracle := o }

/-- The start of 95 section 3.8's rows: snapshot 0 loaded for thread 7. -/
def loadedWith (fp : FpState) (o : Oracle := ⟨[], [], [], []⟩) (c : Cfg := exCfg) : State :=
  { start c o with store := [(0, snap fp)], next := 1 }

/-- Snapshot 0 with its loader pending. -/
def loaded (o : Oracle := ⟨[], [], [], []⟩) : State := loadedWith .pending o

/-- The oracle that answers one TReadFp. -/
def fpOracle (a : FpAnswer) : Oracle := ⟨[], [], [a], []⟩

/-- The oracle that answers one TWrite. -/
def writeOracle (a : WriteAnswer) : Oracle := ⟨[], [a], [], []⟩

/-- The state after one step on a packet. -/
def after (s : State) (p : Packet) : Option State :=
  match step { s with pending := [.packet p] } with
  | .next t => some t
  | .fault _ => none
  | .refused _ => none

/-- The response to one packet. -/
def answer (s : State) (p : Packet) : Option Response := (after s p).bind (·.responses.getLast?)

/-- The output wire after a descriptor. -/
def wire (raw : RawDesc) (w : Word32) (prev : Option SlotValue) : Option SlotOut :=
  (after (start exCfg) (.descriptor raw w prev)).map (·.slotOut)

/-- An Instruction with its shown slots. -/
def inst (n : Nat) (args : Vector SlotValue 5) (w : Word32) : Instruction := ⟨.isa n, args, w, 4⟩

/-- A general-purpose register operand. -/
def r (n : Nat) : SlotValue := .reg ⟨.gpr, n⟩

theorem test_exCfg_passes_checks : cfgWf exCfg = true := by decide

/-! ## Ill-formed terms are refused -/

theorem test_reserved_tag_refused : rawDescFailed ⟨9, {}⟩ = some .tag := by decide

theorem test_field_past_bit_31_refused : rawDescFailed (reg 5 28) = some .field := by decide

theorem test_width_0_refused : rawDescFailed (int 0 0 0) = some .width0 := by decide

theorem test_shift_64_refused : rawDescFailed (int 4 0 15 0 64) = some .shift := by decide

theorem test_align_64_refused : rawDescFailed (pcRel 4 0 15 0 2 64) = some .align := by decide

theorem test_map_key_outside_field_refused :
    rawDescFailed ⟨2, { width := 2, map := [(4, 0)] }⟩ = some .mapKeys := by decide

theorem test_maxSize_0_refused : rawDescFailed (msb 5 0 0 true 0) = some .msb := by decide

/-- K-20. -/
theorem test_check_gt_eq_refused :
    rawDescFailed ⟨8, { width := 5, gt := true, eq := true }⟩ = some .check := by decide

theorem test_row_value_outside_mask_refused :
    rowFailed (row 0 0xF0000000 0x00000001 #v[no, no, no, no, no]) = some .rowValue := by decide

/-- 92_eei_decisions D14: an entry after the first `none` that is not `none`. -/
theorem test_descriptor_after_terminator_refused :
    rowFailed (row 0 0xF0000000 0 #v[reg 5 0, no, reg 5 5, no, no]) = some .afterTerminator ∧
    rowFailed (row 0 0xF0000000 0 #v[reg 5 0, reg 5 5, no, no, no]) = none := by decide

theorem test_no_special_slot_refused :
    cfgFailed { exCfg with numSpecial := 0 } = some .numSpecial := by decide

theorem test_missing_slot_refused :
    cfgFailed { exCfg with spSlot := .gpr 4 } = some .fixedSlot := by decide

theorem test_aliased_slots_refused :
    cfgFailed { exCfg with fpSlot := .gpr 2 } = some .slotsDistinct := by decide

theorem test_short_listOrder_refused :
    cfgFailed { exCfg with listOrder := [.gpr 0, .gpr 1, .gpr 2, .gpr 3] } = some .listOrder := by decide

theorem test_empty_big_template_refused :
    cfgFailed { exCfg with tplBig := some [] } = some .template := by decide

theorem test_overlapping_layout_refused :
    cfgFailed { exCfg with gprLayout := .positions [(.gpr 0, List.range' 0 8), (.gpr 1, List.range' 7 8)] 0 } =
      some .layout := by decide

/-- Five slots need forty bytes. -/
theorem test_block_too_small_refused :
    cfgFailed { exCfg with gprLayout := .uninterpreted 0, gprBlockBytes := 39 } = some .layout ∧
    cfgFailed { exCfg with gprLayout := .uninterpreted 0, gprBlockBytes := 40 } = none := by decide

theorem test_ill_formed_instr : (Instr.integer ⟨30, 3, 7, 0, 0⟩ 0 none).wf = false := by decide

/-! ## Words written out from the spec's encodings -/

/-- 30_encoding R91's codes, bits [7:0] of a header, for the decoder and the classifier. -/
theorem test_decoder_and_classifier_headers :
    decodeTableWord 32 0b00000000000000000000000000000001 = some (.decode []) ∧
    decodeTableWord 32 0b00000000000000000000000000000010 = some (.classify Instruction.zero) ∧
    decodeTableWord 32 0b00000000000000000000000000000011 =
      some (.resolveTarget Instruction.zero 0 none ⟨0⟩) ∧
    decodeTableWord 32 0b00000000000000000000000000000100 = some (.decodeOne [] 0 none ⟨0⟩) ∧
    decodeTableWord 32 0b00000000000000000000000000000101 = some (.matchPrologue []) := by decide

/-- The same for the snapshot commands; header bit 8 is `includeFP`. -/
theorem test_snapshot_headers :
    decodeTableWord 32 0b00000000000000000000000000010000 = some (.loadSnapshot ⟨0⟩) ∧
    decodeTableWord 32 0b00000000000000000000000000010001 = some (.asRegisterList false 0) ∧
    decodeTableWord 32 0b00000000000000000000000100010001 = some (.asRegisterList true 0) ∧
    decodeTableWord 32 0b00000000000000000000000000010010 = some (.programCounter 0) ∧
    decodeTableWord 32 0b00000000000000000000000000010011 = some (.stackPointer 0) ∧
    decodeTableWord 32 0b00000000000000000000000000010100 = some (.framePointer 0) ∧
    decodeTableWord 32 0b00000000000000000000000000010101 = some (.get 0 0) ∧
    decodeTableWord 32 0b00000000000000000000000000010110 = some (.copy 0) := by decide

theorem test_setter_headers :
    decodeTableWord 32 0b00000000000000000000000000010111 = some (.setPc 0 0) ∧
    decodeTableWord 32 0b00000000000000000000000000011000 = some (.setSp 0 0) ∧
    decodeTableWord 32 0b00000000000000000000000000011001 = some (.setDx 0 0) := by decide

/-- 30_encoding R82's tags, four bits. -/
theorem test_descriptor_tags :
    decodeTableWord 8 0b0000 = some (.descNone 0 none) ∧
    decodeTableWord 8 0b0001 = some (.integer ⟨0, 0, 0, 0, 0⟩ 0 none) ∧
    decodeTableWord 8 0b0010 = some (.mappedInteger ⟨0, 0, []⟩ 0 none) ∧
    decodeTableWord 8 0b0011 = some (.mostSignificantBit ⟨0, 0, 0, false, 0⟩ 0 none) ∧
    decodeTableWord 8 0b0100 = some (.register ⟨0, 0, .gpr, none⟩ 0 none) ∧
    decodeTableWord 8 0b0101 = some (.optionalRegister ⟨0, 0, .gpr, none⟩ 0 none) ∧
    decodeTableWord 8 0b0110 = some (.registerPair ⟨0, 0, .gpr, [], []⟩ 0 none) ∧
    decodeTableWord 8 0b0111 = some (.pcRelative ⟨0, 0, 0, 0, 0, 0, false, false⟩ 0 none) ∧
    decodeTableWord 8 0b1000 =
      some (.checkAgainstPrevious ⟨0, 0, false, false, false, false⟩ 0 none) := by decide

/-- H-2 to H-7 and H-10 to H-12 select no command, and so does 0x00000115. -/
theorem test_unknown_headers :
    [0x00000000, 0x00000006, 0x0000001A, 0x000000FF, 0x00010001, 0x00000101, 0x00000311, 0x80000011,
      0x00000119, 0x00000115].map selectCommand = List.replicate 10 none := by decide

/-- 95 section 3.5: 0x00000115 on a handle that names no snapshot is UnknownCommand, not InvalidHandle. -/
theorem test_header_checked_before_handle :
    answer (start exCfg) (.command 0x00000115 { h := 9 }) = some ⟨.unknownCommand, .none⟩ := by decide

/-! ## The decoder and the engine -/

/-- X-10 and X-11: the byte order, and the fifth byte ignored. -/
theorem test_word_assembly :
    assembleWord .big [0x00, 0x04, 0x00, 0x04] = some 0x00040004 ∧
    assembleWord .little [0x00, 0x04, 0x00, 0x04, 0xAA] = some 0x04000400 := by decide

/-- X-2 to X-7. -/
theorem test_extract_insert :
    extract 0x18221900 6 5 = 4 ∧ extract 0xFFFFFFFF 0 0 = 0 ∧ insertField 0 21 5 33 = 0x00200000 ∧
    insertField 0xFFFFFFFF 0 4 0 = 0xFFFFFFFF ∧ insertField 0x0C000000 21 5 1 = 0x0C200000 := by decide

/-- D-1: rows 0 and 1 both match, and the earlier wins. -/
theorem test_decode_first_row_wins :
    answer (start exCfg) (.command 0x01 { bytes := [0x00, 0x00, 0xE0, 0x0F] }) =
      some ⟨.ok, .decoded (inst 0 #v[.empty, .empty, .empty, .empty, .empty] 0x0FE00000) 0⟩ := by decide

/-- D-10: two registers and a sign-extended immediate. -/
theorem test_decode_exaddi :
    answer (start exCfg) (.command 0x01 { bytes := [0xFF, 0xFF, 0x22, 0x10] }) =
      some ⟨.ok, .decoded (inst 4 #v[r 2, r 1, .int (-1), .empty, .empty] 0x1022FFFF) 4⟩ := by decide

/-- D-16, D-18, D-23: MostSignificantBit through the table. -/
theorem test_decodeBytes_msb :
    (decodeBytes exCfg [0x00, 0x19, 0x22, 0x18]).toOption =
      some (inst 6 #v[r 2, r 1, .int 4, .int 7, .empty] 0x18221900, 6) ∧
    (decodeBytes exCfg [0x40, 0xF8, 0x22, 0x18]).toOption = none ∧
    (decodeBytes exCfg [0x04, 0x19, 0x22, 0x18]).toOption = none := by decide

/-- D-24, D-25, D-28, D-31, D-33, D-34: Check, a map miss, an elidable register, a predicate. -/
theorem test_decodeBytes_kinds :
    (decodeBytes exCfg [0x00, 0x38, 0x65, 0x1C]).toOption =
      some (inst 7 #v[r 3, .empty, r 7, .empty, .empty] 0x1C653800, 7) ∧
    (decodeBytes exCfg [0x00, 0x38, 0xA5, 0x1C]).toOption = none ∧
    (decodeBytes exCfg [0x03, 0x00, 0x80, 0x20]).toOption =
      some (inst 9 #v[.int 3, r 4, .empty, .empty, .empty] 0x20800003, 9) ∧
    (decodeBytes exCfg [0x00, 0x20, 0x85, 0x28]).toOption =
      some (inst 11 #v[r 4, .optReg ⟨.gpr, 4⟩ true, r 5, .empty, .empty] 0x28852000, 11) ∧
    (decodeBytes exCfg [0x01, 0x00, 0x20, 0x2C]).toOption =
      some (inst 12 #v[r 1, .reg ⟨.other 0, 0⟩, .empty, .empty, .empty] 0x2C200001, 12) ∧
    (decodeBytes exCfg [0x00, 0x00, 0x20, 0x2C]).toOption = none := by decide

/-- D-31, D-32: the rendered operands. -/
theorem test_rendered_operands :
    renderedOperands (inst 11 #v[r 4, .optReg ⟨.gpr, 4⟩ true, r 5, .empty, .empty] 0x28852000) = [r 4, r 5] ∧
    renderedOperands (inst 11 #v[r 3, .optReg ⟨.gpr, 4⟩ false, r 5, .empty, .empty] 0x28851800) =
      [r 3, .optReg ⟨.gpr, 4⟩ false, r 5] := by decide

/-- I-1 to I-4, I-6, I-7, I-9, I-10, I-12. -/
theorem test_intDecode :
    intDecode 0x7FFF 0 0 16 0xFFFF = -1 ∧ intDecode 0x7FFF 0 0 16 0x7FFF = 32767 ∧
    signed (intDecode 0x7FFF 0 0 16 0x8000) = -32768 ∧ intDecode 0x3FFFFFF 0 2 26 0x400 = 0x1000 ∧
    intDecode 7 1 0 3 7 = 8 ∧ signed (intDecode (-1) 0 0 4 0) = -16 ∧
    intDecode 1 0 63 1 1 = 0x8000000000000000 ∧ intDecode 3 (-1) 0 2 0 = -1 ∧
    signed (intDecode 0x1FFFFFF 0 2 26 0x3FFFFFF) = -4 := by decide

/-- B-1, B-3, B-6 and E-1, E-4 to E-7, E-9. -/
theorem test_int_bounds_and_encode :
    intMin ⟨0, 16, 0x7FFF, 0, 0⟩ = -32768 ∧ intMax ⟨0, 26, 0x1FFFFFF, 0, 2⟩ = 0x7FFFFFC ∧
    intMin ⟨0, 4, -1, 0, 0⟩ = -16 ∧ intEncode ⟨0, 16, 0x7FFF, 0, 0⟩ (-1) = some 0xFFFF ∧
    intEncode ⟨0, 3, 7, 1, 0⟩ 0 = none ∧ intEncode ⟨0, 26, 0x3FFFFFF, 0, 2⟩ 0x1000 = some 0x400 ∧
    intEncode ⟨0, 26, 0x3FFFFFF, 0, 2⟩ 1 = none ∧ intEncode ⟨0, 4, -1, 0, 0⟩ (-16) = some 0 ∧
    intEncode ⟨0, 4, -1, 0, 0⟩ 0 = none := by decide

theorem test_none_terminates : wire no 0xFFFFFFFF (some (r 1)) = some .terminator := by decide

/-- I-12 on the wire: EXCALL's offset read as an Integer. -/
theorem test_integer_negative :
    wire (int 26 0 0x1FFFFFF 0 2) 0x0BFFFFFF none = some (.value (.int (-4))) := by decide

/-- K-1, K-2. -/
theorem test_mappedInteger :
    wire ⟨2, { width := 2, map := [(0, 1), (1, 2), (2, 4)] }⟩ 2 none = some (.value (.int 4)) ∧
    wire ⟨2, { width := 2, map := [(0, 1), (1, 2), (2, 4)] }⟩ 3 none = some .noValue := by decide

/-- K-3 to K-6. -/
theorem test_msb :
    wire (msb 5 0 0 true 32) 3 (some (.int 4)) = some (.value (.int 7)) ∧
    wire (msb 5 0 0 true 32) 3 (some (.int 31)) = some .noValue ∧
    wire (msb 5 0 0 true 32) 3 (some (r 1)) = some .noValue ∧
    wire (msb 5 0 0 true 32) 3 none = some .noValue := by decide

/-- K-7, K-8 and D-2's field. -/
theorem test_register :
    wire ⟨4, { cls := .other 0, remap := some [(0, 0)] }⟩ 0xFFFFFFFF none =
      some (.value (.reg ⟨.other 0, 0⟩)) ∧
    wire ⟨4, { width := 1, remap := some [(1, 9)] }⟩ 0 none = some .noValue ∧
    wire (reg 5 21) 0x0C200000 none = some (.value (r 1)) := by decide

/-- K-9 to K-11. -/
theorem test_optionalRegister :
    wire ⟨5, { width := 5 }⟩ 4 (some (.optReg ⟨.gpr, 4⟩ false)) =
      some (.value (.optReg ⟨.gpr, 4⟩ true)) ∧
    wire ⟨5, { width := 5 }⟩ 4 none = some (.value (.optReg ⟨.gpr, 4⟩ false)) ∧
    wire ⟨5, { width := 5 }⟩ 4 (some (.int 4)) = some (.value (.optReg ⟨.gpr, 4⟩ false)) := by decide

/-- K-12. -/
theorem test_registerPair :
    wire ⟨6, { width := 2, map1 := [(0, 4), (1, 6)], map2 := [(0, 5), (1, 7)] }⟩ 1 none =
      some (.value (.pair ⟨.gpr, 6⟩ ⟨.gpr, 7⟩)) := by decide

/-- D-8's slot. -/
theorem test_pcRelative :
    wire (pcRel 26 0 0x1FFFFFF 0 2 2) 0x0BFFFFFF none =
      some (.value (.pcRel (-4) 2 false false)) := by decide

/-- K-13 to K-15. -/
theorem test_check_gt_zero :
    wire ⟨8, { width := 5, gt := true }⟩ 5 (some (r 3)) = some (.value .empty) ∧
    wire ⟨8, { width := 5, gt := true }⟩ 3 (some (r 3)) = some .noValue ∧
    wire ⟨8, { width := 5, zero := true }⟩ 0 (some (.int (-1))) = some (.value .empty) := by decide

/-- K-16 to K-19. -/
theorem test_check_signed_and_forms :
    wire ⟨8, { width := 5, lt := true }⟩ 0 (some (.int (-1))) = some .noValue ∧
    wire ⟨8, { width := 5 }⟩ 9 (some (r 0)) = some (.value .empty) ∧
    wire ⟨8, { width := 5 }⟩ 9 (some (.pair ⟨.gpr, 0⟩ ⟨.gpr, 1⟩)) = some .noValue ∧
    wire ⟨8, { width := 5 }⟩ 9 (some .empty) = some .noValue := by decide

/-- PC-3, PC-5 to PC-11. -/
theorem test_pcrelTarget :
    pcrelTarget 0x1003 8 2 false false = 0x1008 ∧ pcrelTarget 0x1000 (-4) 2 false false = 0x0FFC ∧
    pcrelTarget 0 (-4) 2 false false = 0xFFFFFFFFFFFFFFFC ∧
    pcrelTarget 0xFFFFFFFFFFFFFFFC 8 2 false false = 4 ∧ pcrelTarget 0x1001 8 1 true false = 0x1009 ∧
    pcrelTarget 0x1001 8 1 true true = 0x1008 ∧ pcrelTarget 0x1001 8 1 false true = 0x1008 ∧
    pcrelTarget 0x1000 9 0 true false = 0x1008 := by decide

/-! ## The classifier -/

/-- 95 section 3.6: EXCALL is a Call; LDR is Other. -/
theorem test_classify :
    answer (start exCfg) (.command 0x02 { inst := inst 3 #v[.empty, .empty, .empty, .empty, .empty] 0 }) =
      some ⟨.ok, .kind .call⟩ ∧
    answer (start exCfg) (.command 0x02 {}) = some ⟨.ok, .kind .other⟩ := by decide

/-- T-2: a PC-relative call, known to the resolver. -/
theorem test_resolveTarget_pcRel :
    answer (start exCfg ⟨[], [], [], [.known ⟨"a.go", 10, 0⟩]⟩) (.command 0x03
      { inst := inst 3 #v[.pcRel 8 2 false false, .empty, .empty, .empty, .empty] 0x08000002
        addr := 0x1000, cur := ⟨7⟩ }) =
      some ⟨.ok, .location (some ⟨0x1008, some ⟨"a.go", 10, 0⟩⟩)⟩ := by decide

/-- T-4, T-5: a register target, of the current thread and of another. -/
theorem test_resolveTarget_register :
    answer (loaded ⟨[], [], [], [.unknown]⟩) (.command 0x03
      { inst := inst 1 #v[r 1, .empty, .empty, .empty, .empty] 0x0C200000
        addr := 0x1008, hOpt := some 0, cur := ⟨7⟩ }) = some ⟨.ok, .location (some ⟨5, none⟩)⟩ ∧
    answer loaded (.command 0x03
      { inst := inst 1 #v[r 1, .empty, .empty, .empty, .empty] 0x0C200000
        addr := 0x1008, hOpt := some 0, cur := ⟨8⟩ }) = some ⟨.ok, .location none⟩ := by decide

/-- T-11. -/
theorem test_decodeOne :
    answer (start exCfg ⟨[], [], [], [.known ⟨"a.go", 10, 0⟩]⟩) (.command 0x04
      { bytes := [0x02, 0x00, 0x00, 0x08], addr := 0x1000, cur := ⟨7⟩ }) =
      some ⟨.ok, .decodedOne
        (inst 3 #v[.pcRel 8 2 false false, .empty, .empty, .empty, .empty] 0x08000002) 3 .call
        (some ⟨0x1008, some ⟨"a.go", 10, 0⟩⟩)⟩ := by decide

/-- T-12, T-13: the handle is checked before the length. -/
theorem test_decodeOne_error_order :
    answer loaded (.command 0x04 { bytes := [2, 0, 0], hOpt := some 5 }) = some ⟨.invalidHandle, .none⟩ ∧
    answer loaded (.command 0x04 { bytes := [2, 0, 0] }) = some ⟨.truncatedInput, .none⟩ := by decide

/-- M-1, M-2, M-8. -/
theorem test_matchPrologue :
    answer (start exCfg) (.command 0x05 { ops := [.ldr, .sub, .cmp, .b] }) =
      some ⟨.ok, .prologue true (some 1)⟩ ∧
    answer (start exCfg) (.command 0x05 { ops := [.ldr, .mov, .cmp, .b] }) =
      some ⟨.ok, .prologue true (some 0)⟩ ∧
    answer (start exCfg) (.command 0x05 { ops := [.ldr, .ldr, .sub, .cmp, .b] }) =
      some ⟨.ok, .prologue false none⟩ := by decide

/-- M-9: a big template. -/
theorem test_matchPrologue_big :
    answer (start { exCfg with tplBig := some [.sub, .sub, .cmp, .b] })
      (.command 0x05 { ops := [.ldr, .sub, .sub, .cmp, .b] }) = some ⟨.ok, .prologue true (some 2)⟩ := by
  decide

/-! ## The register snapshot -/

/-- 95 section 3.8's start: the block parsed into snapshot 0. -/
theorem test_loadSnapshot :
    (after (start exCfg ⟨[.ok block], [], [], []⟩) (.command 0x10 { tid := ⟨7⟩ })).map
      (fun t => (t.store, t.next, t.responses)) =
      some ([(0, snap .pending)], 1, [⟨.ok, .handle 0⟩]) := by decide

/-- S-27, S-28: a transport error and a block of the wrong length. -/
theorem test_loadSnapshot_failures :
    answer (start exCfg ⟨[.err ⟨1⟩], [], [], []⟩) (.command 0x10 { tid := ⟨9⟩ }) =
      some ⟨.registerTransportError, .cause (.transport ⟨1⟩)⟩ ∧
    answer (start exCfg ⟨[.ok [1, 2, 3]], [], [], []⟩) (.command 0x10 { tid := ⟨9⟩ }) =
      some ⟨.registerTransportError, .cause .malformed⟩ := by decide

/-- S-11: the general and special pairs, then the floating-point registers. -/
theorem test_asRegisterList_fp :
    answer (loaded (fpOracle (.ok rawFp))) (.command 0x0111 {}) =
      some ⟨.ok, .registers [("R0", .word 0), ("R1", .word 5), ("R2", .word 0x7FFF0000), ("R3", .word 0),
        ("PC", .word 0x1000), ("F0", .fp 0x0706050403020100), ("F1", .fp 0x0F0E0D0C0B0A0908)] false⟩ := by
  decide

/-- S-13, S-14: unavailable is a flag, a failure an error that stays. -/
theorem test_asRegisterList_no_fp :
    answer (loaded (fpOracle .notAvailable)) (.command 0x0111 {}) =
      some ⟨.ok, .registers [("R0", .word 0), ("R1", .word 5), ("R2", .word 0x7FFF0000), ("R3", .word 0),
        ("PC", .word 0x1000)] true⟩ ∧
    (after (loaded (fpOracle (.err ⟨2⟩))) (.command 0x0111 {})).map (·.store) =
      some [(0, snap (.resolved (.failed (.transport ⟨2⟩))))] := by decide

/-- S-1. -/
theorem test_programCounter : answer loaded (.command 0x12 {}) = some ⟨.ok, .value 0x1000⟩ := by decide

/-- S-2. -/
theorem test_stackPointer : answer loaded (.command 0x13 {}) = some ⟨.ok, .value 0x7FFF0000⟩ := by decide

/-- S-3. -/
theorem test_framePointer : answer loaded (.command 0x14 {}) = some ⟨.ok, .value 0⟩ := by decide

/-- S-4 and S-6 to S-8, with NUM_GPR = 4. -/
theorem test_get :
    answer loaded (.command 0x15 { idx := 1 }) = some ⟨.ok, .value 5⟩ ∧
    answer loaded (.command 0x15 { idx := 3 }) = some ⟨.ok, .value 0⟩ ∧
    answer loaded (.command 0x15 { idx := 4 }) = some ⟨.unknownRegister, .none⟩ ∧
    answer loaded (.command 0x15 { idx := 0xFFFFFFFFFFFFFFFF }) = some ⟨.unknownRegister, .none⟩ := by decide

/-- S-17. -/
theorem test_copy :
    (after (loaded (fpOracle (.ok rawFp))) (.command 0x16 {})).map (fun t => (t.store, t.next, t.trace)) =
      some ([(0, snap (.resolved (.loaded ⟨[0x0706050403020100, 0x0F0E0D0C0B0A0908], rawFp⟩))),
        (1, { snap (.resolved (.loaded ⟨[0x0706050403020100, 0x0F0E0D0C0B0A0908], rawFp⟩)) with
              live := false })], 2, [.readFp ⟨7⟩ (.ok rawFp)]) := by decide

/-- S-18: no copy of a failed floating-point state. -/
theorem test_copy_failed :
    (after (loaded (fpOracle (.err ⟨2⟩))) (.command 0x16 {})).map (fun t => (t.next, t.responses)) =
      some (1, [⟨.registerTransportError, .cause (.transport ⟨2⟩)⟩]) := by decide

/-- S-20: the whole block is written, with the PC's bytes changed. -/
theorem test_setPc :
    (after (loaded (writeOracle .ok)) (.command 0x17 { v := 0x2000 })).map (fun t => (t.store, t.trace)) =
      some ([(0, ⟨⟨7⟩, ⟨[0, 5, 0x7FFF0000, 0], [0x2000]⟩, .pending, true⟩)],
        [.write ⟨7⟩ (block.take 32 ++ [0, 0x20, 0, 0, 0, 0, 0, 0]) .ok]) := by decide

/-- With `MUTABLE(PC) = false` (95 section 3.8's last line). -/
theorem test_setPc_unsupported :
    answer (loadedWith .pending ⟨[], [], [], []⟩ { exCfg with mutablePc := false })
      (.command 0x17 { v := 0x2000 }) = some ⟨.unsupportedRegisterOperation, .none⟩ := by decide

/-- S-22. -/
theorem test_setSp :
    (after (loaded (writeOracle .ok)) (.command 0x18 { v := 0x7FFE0000 })).map (·.store) =
      some [(0, ⟨⟨7⟩, ⟨[0, 5, 0x7FFE0000, 0], [0x1000]⟩, .pending, true⟩)] := by decide

/-- S-23: the failed write's response. -/
theorem test_setSp_failed :
    answer (loaded (writeOracle (.err ⟨3⟩))) (.command 0x18 { v := 0x7FFE0000 }) =
      some ⟨.registerTransportError, .cause (.transport ⟨3⟩)⟩ := by decide

/-- S-24, S-25. -/
theorem test_setDx :
    answer loaded (.command 0x19 { v := 1 }) = some ⟨.unsupportedRegisterOperation, .none⟩ ∧
    answer loaded (.command 0x19 { h := 3, v := 1 }) = some ⟨.invalidHandle, .none⟩ := by decide

/-- The numeric codes of 60_exceptions R178. -/
theorem test_statusCodes :
    [Status.ok, .truncatedInput, .unknownEncoding, .unknownRegister, .unsupportedRegisterOperation,
      .registerTransportError, .floatingPointUnavailable, .unknownCommand, .invalidHandle].map statusCode =
      [0, 1, 2, 3, 4, 5, 6, 7, 8] := by decide

/-- A mnemonic is the opcode's name (30_encoding R96). -/
theorem test_mnemonic : mnemonic exCfg .ldr = "LDR" ∧ mnemonic exCfg (.isa 4) = "EXADDI" := by decide

/-! ## Witnesses: the hypotheses of the statements can be met

One theorem per statement with hypotheses, one conjunct per clause, at a boundary where the clause has one. -/

/-- DECODE of no bytes at the head of the port. -/
theorem witness_StepRunsDecodedPacket :
    ({ start exCfg with pending := [.packet (.command 1 {})] } : State).pending =
      .packet (.command 1 {}) :: [] ∧
    decodePacket (.command 1 {}) = .ok (.decode []) := ⟨rfl, rfl⟩

theorem witness_IdleAndUnknownHeaderSteps :
    (start exCfg).pending = [] ∧
    ({ start exCfg with pending := [.packet (.command 0x1A {})] } : State).pending =
      .packet (.command 0x1A {}) :: [] ∧ selectCommand 0x1A = none := ⟨rfl, rfl, by decide⟩

theorem witness_HeaderSelectsByCodeAndFlags :
    (0x111 : Word32) &&& Command.asRegisterList.maskBits = Command.asRegisterList.matchBits ∧
    (0x1 : Word32) &&& Command.decode.maskBits = Command.decode.matchBits := by decide

/-- A word that decodes, three bytes, and a word every row rejects. -/
theorem witness_DecodeRespondsWithDecodeFunction :
    decodeBytes exCfg [0x00, 0x00, 0xE0, 0x0F] =
      .ok (inst 0 #v[.empty, .empty, .empty, .empty, .empty] 0x0FE00000, 0) ∧
    ([2, 0, 0] : List Byte).length < 4 ∧
    assembleWord exCfg.byteOrder [0x00, 0x00, 0x00, 0xFC] = some 0xFC000000 ∧
    ∀ q ∈ exCfg.table, tryRow q 0xFC000000 = none := ⟨rfl, by decide, by decide, by decide⟩

theorem witness_TruncatedInputBelowFourBytes :
    ([2, 0, 0] : List Byte).length < 4 ∧ loaded.handleKnown none = true ∧
    loaded.handleKnown (some 0) = true := by decide

/-- A word every row rejects, one that a row decodes, an empty table, and handle operands that pass the check. -/
theorem witness_UnknownEncodingWhenEveryRowRejects :
    4 ≤ ([0, 0, 0, 0] : List Byte).length ∧
    assembleWord loaded.cfg.byteOrder [0x00, 0x00, 0x00, 0xFC] = some 0xFC000000 ∧
    (∀ q ∈ loaded.cfg.table, tryRow q 0xFC000000 = none) ∧
    (¬ ∀ q ∈ loaded.cfg.table, tryRow q 0x0FE00000 = none) ∧
    ({ exCfg with table := [] } : Cfg).table = [] ∧
    loaded.handleKnown none = true ∧ loaded.handleKnown (some 0) = true := by decide

/-- Row 9 wins only because row 8, which stands before it, rejects. -/
theorem witness_FirstDecodingRowWins :
    (decodeBytes exCfg [0x03, 0x00, 0x80, 0x20]).toOption.map (·.2) = some 9 ∧
    (exCfg.table[8]?.bind fun q => tryRow q 0x20800003) = none ∧
    (exCfg.table[9]?.bind fun q => tryRow q 0x20800003).isSome = true := by decide

/-- The row with a predicate: the predicate true, then false. -/
theorem witness_RowTriedInThreeSteps :
    (exCfg.table[12]?.bind fun q => tryRow q 0x2C200001).isSome = true ∧
    (exCfg.table[12]?.bind fun q => tryRow q 0x2C200000) = none := by decide

theorem witness_FirstFourBytesFormWord : 4 ≤ ([0, 4, 0, 4] : List Byte).length := by decide

theorem witness_MappedIntegerLooksUp :
    [(0, (1 : Int)), (2, 4)].lookup (extract 2 0 2) = some 4 ∧
    [(0, (1 : Int)), (2, 4)].lookup (extract 3 0 2) = none ∧
    (row 0 0 0 #v[reg 5 21, ⟨2, { width := 2, map := [(0, 1), (2, 4)] }⟩, no, no, no]).args.toList =
      [reg 5 21] ++ encodeEntry (.kind (.mappedInteger ⟨0, 2, [(0, 1), (2, 4)]⟩)) :: [no, no, no] ∧
    ∀ raw ∈ [reg 5 21], raw.tag ≠ 0 := by decide

/-- The last position accepted (`maxSize - 1`), the first refused (`maxSize`), an empty bitfield, a bitfield of
one bit, a negative position, and a slot that is no Int. -/
theorem witness_MostSignificantBitGivesPosition :
    (0 ≤ (31 : Int) ∧ (0 : Int) ≤ 0 ∧ (31 : Int) < 32 ∧
      (31 : Int) = (if true then (0 : Word).toInt else 0) + (extract 31 0 5 : Int) + 0) ∧
    (¬ ((1 : Int) ≤ 32 ∧ (0 : Int) ≤ 1 ∧ (32 : Int) < 32) ∧
      (32 : Int) = (if true then (1 : Word).toInt else 0) + (extract 31 0 5 : Int) + 0) ∧
    (¬ ((4 : Int) ≤ 3 ∧ (0 : Int) ≤ 4 ∧ (3 : Int) < 32) ∧
      (3 : Int) = (if false then (4 : Word).toInt else 0) + (extract 3 0 5 : Int) + 0) ∧
    ((4 : Int) ≤ 4 ∧ (0 : Int) ≤ 4 ∧ (4 : Int) < 32 ∧
      (4 : Int) = (if false then (4 : Word).toInt else 0) + (extract 4 0 5 : Int) + 0) ∧
    ¬ (0 ≤ ((-1 : Word).toInt)) ∧ ∀ l, (none : Option SlotValue) ≠ some (.int l) := by
  refine ⟨by decide, by decide, by decide, by decide, by decide, fun l h => by cases h⟩

theorem witness_RegisterNamesFieldOrRemap :
    (⟨21, 5, .gpr, none⟩ : RegisterDesc).remap = none ∧
    (⟨0, 1, .gpr, some [(1, 9)]⟩ : RegisterDesc).remap = some [(1, 9)] ∧
    [(1, 9)].lookup (extract 1 0 1) = some 9 ∧ [(1, 9)].lookup (extract 0 0 1) = none := by decide

theorem witness_OptionalRegisterElidable :
    slotRegister ⟨0, 5, .gpr, none⟩ 4 = some (.reg ⟨.gpr, 4⟩) ∧
    slotRegister ⟨0, 1, .gpr, some [(1, 9)]⟩ 0 = none := by decide

theorem witness_RegisterPairLooksUpBothMaps :
    [(1, 6)].lookup (extract 1 0 2) = some 6 ∧ [(1, 7)].lookup (extract 1 0 2) = some 7 ∧
    [(1, 6)].lookup (extract 2 0 2) = none := by decide

/-- The three forms with a comparand, a check that passes and one that fails at equality, and a form without. -/
theorem witness_CheckGatesAreAnded :
    (∃ x : Word, some (SlotValue.int (-1)) = some (.int x) ∧ (-1 : Int) = x.toInt) ∧
    (∃ id, some (r 3) = some (.reg id) ∧ (3 : Int) = id.num) ∧
    (∃ id b, some (SlotValue.optReg ⟨.gpr, 3⟩ true) = some (.optReg id b) ∧ (3 : Int) = id.num) ∧
    (extract 4 0 5 : Int) > 3 ∧ ¬ ((extract 3 0 5 : Int) > 3) ∧
    ∃ a b, some (SlotValue.pair ⟨.gpr, 0⟩ ⟨.gpr, 1⟩) = some (.pair a b) := by
  refine ⟨⟨-1, rfl, by decide⟩, ⟨_, rfl, rfl⟩, ⟨_, _, rfl, rfl⟩, by decide, by decide, ⟨_, _, rfl⟩⟩

theorem witness_RowDecodingRunsDescriptorsInOrder :
    [reg 5 21, int 3 0 7 1, no].mapM decodeEntry =
      some [.kind (.register ⟨21, 5, .gpr, none⟩), .kind (.integer ⟨0, 3, 7, 1, 0⟩), .terminator] := by decide

/-- The extremes of `maxVal` (-1 and `2^width - 1`), the field at `maxVal` and just above it, and the least
value that fits 64 bits. -/
theorem witness_IntDecodeClosedForm :
    ((4 : Nat) ≤ 32 ∧ 0 < 2 ^ 4 ∧ (-1 : Int) ≤ -1 ∧ (-1 : Int) ≤ 2 ^ 4 - 1 ∧
      (-16 : Int) = ((if (0 : Int) ≤ -1 then (0 : Int) else 0 - 2 ^ 4) + 0) * 2 ^ 0) ∧
    ((32 : Nat) ≤ 32 ∧ 2 ^ 32 - 1 < 2 ^ 32 ∧ (2 ^ 32 - 1 : Int) ≤ 2 ^ 32 - 1) ∧
    ((8 : Int) = ((if (7 : Int) ≤ 7 then (7 : Int) else 7 - 2 ^ 4) + 1) * 2 ^ 0) ∧
    ((-8 : Int) = ((if (8 : Int) ≤ 7 then (8 : Int) else 8 - 2 ^ 4) + 0) * 2 ^ 0) ∧
    (-(2 ^ 63) : Int) = ((if (1 : Int) ≤ 0 then (1 : Int) else 1 - 2 ^ 1) + 0) * 2 ^ 63 := by decide

theorem witness_IntegerBoundsAreAttained :
    (Desc.integer ⟨0, 4, -1, 0, 0⟩).wf = true ∧ intRegular ⟨0, 4, -1, 0, 0⟩ = true ∧
    intNoOverflow ⟨0, 4, -1, 0, 0⟩ = true ∧
    (Desc.integer ⟨6, 26, 2 ^ 26 - 1, 0, 2⟩).wf = true ∧ intRegular ⟨6, 26, 2 ^ 26 - 1, 0, 2⟩ = true ∧
    intNoOverflow ⟨6, 26, 2 ^ 26 - 1, 0, 2⟩ = true := by decide

/-- An encodable value at each end of a scaled signed field, and one in range that is no multiple of the scale. -/
theorem witness_IntegerRoundTrip :
    (Desc.integer ⟨0, 26, 0x1FFFFFF, 0, 2⟩).wf = true ∧ intRegular ⟨0, 26, 0x1FFFFFF, 0, 2⟩ = true ∧
    intNoOverflow ⟨0, 26, 0x1FFFFFF, 0, 2⟩ = true ∧
    intEncode ⟨0, 26, 0x1FFFFFF, 0, 2⟩ (-0x8000000) = some 0x2000000 ∧
    intEncode ⟨0, 26, 0x1FFFFFF, 0, 2⟩ 0x7FFFFFC = some 0x1FFFFFF ∧
    intEncode ⟨0, 26, 0x1FFFFFF, 0, 2⟩ 1 = none := by decide

/-- The hypotheses of the statement that is expected to fail, met where it fails. -/
theorem witness_IntegerRoundTripDespiteOverflow :
    (Desc.integer ⟨0, 1, 1, 3, 61⟩).wf = true ∧ intRegular ⟨0, 1, 1, 3, 61⟩ = true ∧
    intEncode ⟨0, 1, 1, 3, 61⟩ 0 = some 1 := by decide

theorem witness_InsertOrsIntoField : 27 + 5 ≤ 32 ∧ (26 < 27 ∨ 27 + 5 ≤ 26) ∧ (32 < 27 ∨ 27 + 5 ≤ 32) := by
  decide

theorem witness_PcRelativeTargetArithmetic : 63 ≤ 63 ∧ 1 ≤ 1 := by decide

theorem witness_ClassifyRespondsWithKind :
    exCfg.kinds.lookup (.isa 3) = some .call ∧ exCfg.kinds.lookup .ldr = none := by decide

/-- The last slot that is not Empty is slot 2, with slot 1 Empty before it; and every slot Empty. -/
theorem witness_TargetSlotIsLastNonEmpty :
    exCfg.targetSlots.lookup (.isa 7) = none ∧
    targetSlot exCfg (inst 7 #v[r 3, .empty, r 7, .empty, .empty] 0) = some 2 ∧
    targetSlot exCfg Instruction.zero = none := by decide

/-- One instruction per form of the target slot, and the register form where it resolves and where it does not:
without a snapshot, of another thread, of another class, and at `NUM_GPR`. -/
theorem witness_TargetAddressByForm :
    targetSlot exCfg (inst 2 #v[.int 0x2000, .empty, .empty, .empty, .empty] 0) = some 0 ∧
    targetSlot exCfg (inst 3 #v[.pcRel 8 2 false false, .empty, .empty, .empty, .empty] 0) = some 0 ∧
    targetSlot exCfg (inst 1 #v[r 3, .empty, .empty, .empty, .empty] 0) = some 0 ∧
    targetSlot exCfg (inst 10 #v[.pair ⟨.gpr, 6⟩ ⟨.gpr, 7⟩, .empty, .empty, .empty, .empty] 0) = some 0 ∧
    loaded.snapshot 0 = some (snap .pending) ∧ (snap .pending).tid = ⟨7⟩ ∧ 3 < loaded.cfg.numGpr ∧
    (snap .pending).tid ≠ ⟨8⟩ ∧ (⟨.other 0, 0⟩ : RegId).cls ≠ .gpr ∧ loaded.cfg.numGpr ≤ 4 ∧
    targetSlot { exCfg with targetSlots := [(.isa 2, 1)] }
      (inst 2 #v[.int 0, .empty, .empty, .empty, .empty] 0) = some 1 := by decide

/-- EXJ to 0x2000 with the resolver knowing it and not, EXRET, and EXJR without a snapshot. -/
theorem witness_ResolveTargetLocates :
    loaded.handleKnown (some 0) = true ∧ kindOf exCfg (.isa 2) = .unconditionalJump ∧
    kindOf exCfg (.isa 3) = .call ∧ kindOf exCfg (.isa 0) = .ret ∧ kindOf exCfg .ldr = .other ∧
    targetAddr (start exCfg) (inst 2 #v[.int 0x2000, .empty, .empty, .empty, .empty] 0) 0 none ⟨7⟩ =
      some 0x2000 ∧
    (start exCfg ⟨[], [], [], [.known ⟨"a.go", 10, 0⟩]⟩).resolveAnswer 0x2000 = .known ⟨"a.go", 10, 0⟩ ∧
    (start exCfg ⟨[], [], [], [.unknown]⟩).resolveAnswer 0x2000 = .unknown ∧
    targetAddr (start exCfg) (inst 1 #v[r 1, .empty, .empty, .empty, .empty] 0) 0 none ⟨7⟩ = none := by decide

theorem witness_DecodeOneDecodesClassifiesResolves :
    loaded.handleKnown (some 0) = true ∧ decodeBytes loaded.cfg [0x00, 0x00, 0x20, 0x0C] =
      .ok (inst 1 #v[r 1, .empty, .empty, .empty, .empty] 0x0C200000, 1) := ⟨by decide, rfl⟩

/-- Each variant first, and none. -/
theorem witness_MatchPrologueFirstVariant :
    Opcode.ldr :: [.mov, .cmp, .b] <+: [.ldr, .mov, .cmp, .b] ∧
    (Opcode.ldr :: [.sub, .cmp, .b] <+: [.ldr, .sub, .cmp, .b] ∧
      ¬ Opcode.ldr :: [.mov, .cmp, .b] <+: [.ldr, .sub, .cmp, .b]) ∧
    ((2, some [Opcode.sub, .sub]) ∈ [(0, some [.mov, .cmp, .b]), (1, some [.sub, .cmp, .b]),
        (2, ({ exCfg with tplBig := some [.sub, .sub] } : Cfg).tplBig)] ∧
      Opcode.ldr :: [.sub, .sub] <+: [.ldr, .sub, .sub] ∧
      ¬ Opcode.ldr :: [.mov, .cmp, .b] <+: [.ldr, .sub, .sub] ∧
      ¬ Opcode.ldr :: [.sub, .cmp, .b] <+: [.ldr, .sub, .sub]) ∧
    ¬ Opcode.ldr :: [.mov, .cmp, .b] <+: [] ∧ ¬ Opcode.ldr :: [.sub, .cmp, .b] <+: [] := by decide

/-- A block of the right length, a transport error, and a block one byte short. -/
theorem witness_LoadSnapshotReadsOneBlock :
    (start exCfg ⟨[.ok block], [], [], []⟩).readAnswer ⟨7⟩ = .ok block ∧
    block.length = exCfg.gprBlockBytes ∧
    (start exCfg ⟨[.err ⟨1⟩], [], [], []⟩).readAnswer ⟨9⟩ = .err ⟨1⟩ ∧
    (start exCfg ⟨[.ok (block.take 39)], [], [], []⟩).readAnswer ⟨9⟩ = .ok (block.take 39) ∧
    (block.take 39).length ≠ exCfg.gprBlockBytes := by decide

/-- An unknown handle, a pending loader that ends in each outcome, and one resolved before. -/
theorem witness_AsRegisterListLists :
    loaded.snapshot 1 = none ∧ loaded.snapshot 0 = some (snap .pending) ∧ (snap .pending).fp = .pending ∧
    fpOutcome exCfg (.ok rawFp) = .loaded ⟨[0x0706050403020100, 0x0F0E0D0C0B0A0908], rawFp⟩ ∧
    fpOutcome exCfg .notAvailable = .unavailable ∧
    fpOutcome exCfg (.err ⟨2⟩) = .failed (.transport ⟨2⟩) ∧
    (loadedWith (.resolved .unavailable)).snapshot 0 = some (snap (.resolved .unavailable)) := by decide

/-- D-13: EXADDI R29, R29, -16 shows the register twice; an elidable operand is not shown. -/
theorem witness_RenderedOperandsLeaveOutElidable :
    (renderedOperands (inst 4 #v[r 29, r 29, .int (-16), .empty, .empty] 0x13BDFFF0)).count (r 29) = 2 ∧
    r 29 ≠ .empty ∧ (renderedOperands (inst 4 #v[r 4, .optReg ⟨.gpr, 4⟩ true, .empty, .empty, .empty] 0)) =
      [r 4] := by decide

theorem witness_FpAnswerDecidesFpState :
    rawFp.length = exCfg.fpRawBytes ∧ (rawFp.take 15).length ≠ exCfg.fpRawBytes ∧
    exCfg.fpLayout = .positions [List.range' 0 8, List.range' 8 8] ∧ 1 < exCfg.numFpr ∧
    [List.range' 0 8, List.range' 8 8][1]? = some (List.range' 8 8) := by decide

/-- A known and an unknown handle, and the general-purpose slots of the stack and frame pointers. -/
theorem witness_AccessorsReadFixedSlots :
    loaded.snapshot 0 = some (snap .pending) ∧ loaded.snapshot 1 = none ∧ 3 < loaded.cfg.numGpr ∧
    3 < 2 ^ 64 ∧ loaded.cfg.spSlot = .gpr 2 ∧ loaded.cfg.fpSlot = .gpr 3 ∧
    ({ exCfg with pcSlot := .gpr 0 } : Cfg).pcSlot = .gpr 0 := by decide

/-- The last legal index and the first illegal one. -/
theorem witness_GetReadsGeneralRegister :
    loaded.snapshot 0 = some (snap .pending) ∧ (3 : Word).toNat < loaded.cfg.numGpr ∧
    loaded.cfg.numGpr ≤ (4 : Word).toNat := by decide

/-- GET at `NUM_GPR`, its response, and a register operand at `NUM_GPR`. -/
theorem witness_UnknownRegisterOnlyFromGet :
    loaded.snapshot 0 = some (snap .pending) ∧ loaded.cfg.numGpr ≤ (4 : Word).toNat ∧
    (∃ t q, exec (.get 0 4) loaded = .next t ∧ t.responses = loaded.responses ++ [q] ∧
      q.status = .unknownRegister) ∧ loaded.cfg.numGpr ≤ (⟨.gpr, 4⟩ : RegId).num :=
  ⟨by decide, by decide, ⟨_, _, rfl, rfl, rfl⟩, by decide⟩

theorem witness_CopyAllocatesOwned :
    (loaded (fpOracle .notAvailable)).snapshot 0 = some (snap .pending) ∧ 0 ≠ loaded.next ∧
    (loaded (fpOracle .notAvailable)).fpResult (snap .pending) = .unavailable ∧
    (∀ c, FpResult.unavailable ≠ .failed c) ∧
    (loadedWith (.resolved .unavailable)).snapshot 0 = some (snap (.resolved .unavailable)) ∧
    loaded.fpResult (snap (.resolved .unavailable)) = .unavailable := by
  refine ⟨by decide, by decide, by decide, (fun c h => nomatch h), by decide, by decide⟩

theorem witness_CopyFailsOnFailedFp :
    (loaded (fpOracle (.err ⟨2⟩))).snapshot 0 = some (snap .pending) ∧
    (loaded (fpOracle (.err ⟨2⟩))).fpResult (snap .pending) = .failed (.transport ⟨2⟩) ∧
    loaded.fpResult (snap (.resolved (.failed .malformed))) = .failed .malformed := by decide

theorem witness_SettersWriteBackOneSlot :
    (loaded (writeOracle .ok)).snapshot 0 = some (snap .pending) ∧ exCfg.mutablePc = true ∧
    exCfg.mutableSp = true ∧
    (loaded (writeOracle .ok)).writeAnswer ⟨7⟩
      (gprSerialize exCfg (writeSlot regs exCfg.pcSlot 0x2000)) = .ok ∧
    (loaded (writeOracle .ok)).writeAnswer ⟨7⟩
      (gprSerialize exCfg (writeSlot regs exCfg.spSlot 0x7FFE0000)) = .ok ∧
    regs.gpr.length = exCfg.numGpr ∧ regs.special.length = exCfg.numSpecial ∧
    hasSlot exCfg exCfg.pcSlot = true ∧ hasSlot exCfg exCfg.spSlot = true := by decide

theorem witness_FailedWriteLeavesOldOrNew :
    (loaded (writeOracle (.err ⟨3⟩))).snapshot 0 = some (snap .pending) ∧
    (loaded (writeOracle (.err ⟨3⟩))).writeAnswer ⟨7⟩
      (gprSerialize exCfg (writeSlot regs exCfg.pcSlot 0x2000)) = .err ⟨3⟩ ∧
    (loaded (writeOracle (.err ⟨3⟩))).writeAnswer ⟨7⟩
      (gprSerialize exCfg (writeSlot regs exCfg.spSlot 0x9000)) = .err ⟨3⟩ := by decide

theorem witness_UnsupportedSettersRaise :
    loaded.snapshot 0 = some (snap .pending) ∧ ({ exCfg with mutablePc := false } : Cfg).mutablePc = false ∧
    ({ exCfg with mutableSp := false } : Cfg).mutableSp = false := by decide

theorem witness_UnknownHandleRaisesInvalidHandle :
    (start exCfg).snapshot 0 = none ∧ loaded.snapshot 1 = none := by decide

/-- A copy that succeeds, with a pending loader and with a resolved one, and the accessors right after it. -/
theorem witness_CopyObservesEqual :
    HandlesSequential (loaded (fpOracle .notAvailable)) ∧
    (∃ t, exec (.copy 0) (loaded (fpOracle .notAvailable)) = .next t ∧
      t.responses = [] ++ [⟨.ok, .handle 1⟩] ∧ (∃ u, exec (.asRegisterList true 0) t = .next u) ∧
      ∃ v, exec (.asRegisterList true 1) t = .next v) ∧
    (Instr.asRegisterList true 0, Instr.asRegisterList true 1) ∈ (accessorsOf 0).zip (accessorsOf 1) := by
  refine ⟨by unfold HandlesSequential; decide, ⟨_, rfl, rfl, ⟨_, rfl⟩, ⟨_, rfl⟩⟩, by decide⟩

theorem witness_ReadersLeaveStoreAndTrace :
    writesNoState (.get 0 1) = true ∧ writesNoState (.asRegisterList false 0) = true ∧
    ∃ t, exec (.get 0 1) loaded = .next t := ⟨rfl, rfl, _, rfl⟩

theorem witness_SnapshotsAreIndependent :
    HandlesSequential (loaded (writeOracle .ok)) ∧
    (loaded (writeOracle .ok)).snapshot 0 = some (snap .pending) ∧
    ∃ t, exec (.setPc 0 0x2000) (loaded (writeOracle .ok)) = .next t :=
  ⟨by unfold HandlesSequential; decide, by decide, _, rfl⟩

theorem witness_OnlyLoadAndCopyAllocate :
    HandlesSequential (start exCfg ⟨[.ok block], [], [], []⟩) ∧
    ∃ t, exec (.loadSnapshot ⟨7⟩) (start exCfg ⟨[.ok block], [], [], []⟩) = .next t ∧ t.next = 1 :=
  ⟨by unfold HandlesSequential; decide, _, rfl, by decide⟩

theorem witness_HandlesNeverFreedOrReused :
    (∃ t, step { loaded with pending := [.packet (.command 0x16 {})] } = .next t) ∧
    (loaded.snapshot 0).isSome = true ∧
    (0 < ({ start exCfg with next := 1 } : State).next ∧
      ({ start exCfg with next := 1 } : State).snapshot 0 = none) := by
  refine ⟨⟨_, rfl⟩, by decide, by decide, by decide⟩

theorem witness_ResolvedFpStateIsFinal :
    HandlesSequential { loadedWith (.resolved .unavailable) with pending := [.resume ⟨7⟩] } ∧
    (∃ t, step { loadedWith (.resolved .unavailable) with pending := [.resume ⟨7⟩] } = .next t) ∧
    (loadedWith (.resolved .unavailable)).snapshot 0 = some (snap (.resolved .unavailable)) ∧
    (snap (.resolved .unavailable)).fp = .resolved .unavailable :=
  ⟨by unfold HandlesSequential; decide, ⟨_, rfl⟩, by decide, rfl⟩

/-- A live snapshot of the thread, one of another thread, an owned one, and a handle that names none. -/
theorem witness_ResumeTouchesLiveSnapshotsOfThread :
    ({ loaded with pending := [.resume ⟨7⟩] } : State).pending = .resume ⟨7⟩ :: [] ∧
    loaded.snapshot 1 = none ∧ loaded.snapshot 0 = some (snap .pending) ∧ (snap .pending).tid ≠ ⟨8⟩ ∧
    ({ snap .pending with live := false } : Snapshot).live = false := by decide

theorem witness_ConfigurationNeverChanges :
    (∃ t, exec (.setPc 0 1) (loaded (writeOracle .ok)) = .next t) ∧
    ∃ t, step { loaded with pending := [.packet (.command 0x12 {})] } = .next t := ⟨⟨_, rfl⟩, _, rfl⟩

theorem witness_OneResponsePerRequest :
    ({ loaded with pending := [.packet (.command 0x12 {})] } : State).pending =
      .packet (.command 0x12 {}) :: [] ∧
    ∃ t, step { loaded with pending := [.packet (.command 0x12 {})] } = .next t := ⟨rfl, _, rfl⟩

/-- The first reserved tag is refused, the last tag in use is not. -/
theorem witness_EveryStepAnswers :
    step { loaded with pending := [.packet (.descriptor ⟨9, {}⟩ 0 none)] } = .refused (.reservedTag 9) ∧
    ∃ t, step { loaded with pending := [.packet (.descriptor ⟨8, {}⟩ 0 none)] } = .next t :=
  ⟨rfl, _, rfl⟩

/-- A failed floating-point load, a failed setter, and an error that changes nothing. -/
theorem witness_ErrorsLeaveStateBut :
    (∃ t q, exec (.copy 0) (loaded (fpOracle (.err ⟨2⟩))) = .next t ∧ t.responses = [] ++ [q] ∧
      q.status ≠ .ok) ∧
    (∃ t q, exec (.setSp 0 9) (loaded (writeOracle (.err ⟨3⟩))) = .next t ∧ t.responses = [] ++ [q] ∧
      q.status ≠ .ok) ∧
    (∃ t q, exec (.get 0 4) loaded = .next t ∧ t.responses = [] ++ [q] ∧ q.status ≠ .ok) := by
  refine ⟨⟨_, _, rfl, rfl, ?_⟩, ⟨_, _, rfl, rfl, ?_⟩, ⟨_, _, rfl, rfl, ?_⟩⟩ <;> decide

/-- The invariant holds of a state with a live snapshot, which then runs a COPY. -/
theorem witness_StepKeepsInvariant :
    Inv { loaded (fpOracle .notAvailable) with pending := [.packet (.command 0x16 {})] } ∧
    ∃ t, step { loaded (fpOracle .notAvailable) with pending := [.packet (.command 0x16 {})] } = .next t ∧
      t.next = 2 := by
  refine ⟨⟨by decide, ?_, ?_, ?_, ?_, ?_, ?_⟩, _, rfl, by decide⟩
  · unfold HandlesSequential; decide
  · unfold RegistersShaped RegShape; decide
  · intro hS hm; simp only [loaded, loadedWith, start, List.mem_singleton] at hm; subst hm; trivial
  · unfold OwnedResolved; decide
  · intro tid; simp [loaded, loadedWith, start, snap, State.resetWith, loaderInvoked]
  · unfold NoUnavailableStatus; decide

/-- Both forms of a layout, the uninterpreted one in the smallest block. -/
theorem witness_RegisterBlockParsesBack :
    layoutOk exCfg = true ∧ layoutOk { exCfg with gprLayout := .uninterpreted 3 } = true ∧
    RegShape exCfg regs := ⟨by decide, by decide, by unfold RegShape; decide⟩

theorem passes_terminator : DescriptorPasses no := by constructor <;> decide

theorem passes_reg (lsb : Nat) (h : lsb ≤ 27) : DescriptorPasses (reg 5 lsb) := by
  constructor <;> simp [reg]
  omega

theorem exCfg_slots (r : RegSel) : r ∈ exCfg.listOrder ↔ hasSlot exCfg r = true := by
  cases r with
  | gpr i =>
    show _ ↔ decide (i < 4) = true
    rw [decide_eq_true_iff]
    simp [exCfg]
    omega
  | special j => simp [exCfg, hasSlot]

/-- EXCFG with the row of EXJR alone and an uninterpreted layout, in a block just large enough, passes every
check. -/
theorem witness_IllFormedConfigurationsRefused_passes :
    ConfigurationPasses { exCfg with
      table := [row 1 0xFC1FFFFF 0x0C000000 #v[reg 5 21, no, no, no, no]], gprLayout := .uninterpreted 0 } where
  rows := by
    intro q hq
    obtain rfl := List.mem_singleton.1 hq
    refine ⟨by decide, ?_, ?_⟩
    · intro raw h
      have : raw = reg 5 21 ∨ raw = no := by simpa [row] using h
      exact this.elim (· ▸ passes_reg 21 (by decide)) (· ▸ passes_terminator)
    · intro j k x y _ hy hjk _
      obtain ⟨k, rfl⟩ : ∃ m, k = m + 1 := ⟨k - 1, by omega⟩
      have hm : y ∈ [no, no, no, no] := List.mem_of_getElem? (i := k) (by simpa [row] using hy)
      have : y = no := by simpa using hm
      exact this ▸ rfl
  special := by decide
  fixedSlots := by decide
  distinct := by decide
  listOrder := by
    intro r
    show exCfg.listOrder.count r = if hasSlot exCfg r then 1 else 0
    split
    · exact List.count_eq_one_of_mem (by decide) ((exCfg_slots r).2 ‹_›)
    · exact List.count_eq_zero_of_not_mem (mt (exCfg_slots r).1 ‹_›)
  template := by decide
  layout := (by decide : 8 * (4 + 1) ≤ 40)

/-- One failing value per check of a descriptor and of a row, each just outside the legal range. -/
theorem witness_IllFormedConfigurationsRefused_rows :
    ¬ DescriptorPasses ⟨9, {}⟩ ∧ ¬ DescriptorPasses (reg 5 28) ∧ ¬ DescriptorPasses (int 0 0 0) ∧
    ¬ DescriptorPasses (int 4 0 15 0 64) ∧ ¬ DescriptorPasses (pcRel 4 0 15 0 2 64) ∧
    ¬ DescriptorPasses ⟨2, { width := 2, map := [(4, 0)] }⟩ ∧
    ¬ DescriptorPasses ⟨4, { width := 2, remap := some [(4, 0)] }⟩ ∧
    ¬ DescriptorPasses ⟨6, { width := 2, map2 := [(4, 0)] }⟩ ∧
    ¬ DescriptorPasses (msb 5 0 0 true 0) ∧ ¬ DescriptorPasses (msb 5 0 0 true 65) ∧
    ¬ DescriptorPasses ⟨8, { width := 5, gt := true, eq := true }⟩ ∧
    ¬ RowPasses (row 0 0xFFFFFFFE 1 #v[no, no, no, no, no]) ∧
    ¬ RowPasses (row 0 0 0 #v[reg 5 0, no, reg 5 5, no, no]) :=
  ⟨fun h => absurd h.tag (by decide), fun h => absurd (h.field (by decide)) (by decide),
   fun h => absurd (h.width0 (by decide)) (by decide), fun h => absurd (h.shift (by decide)) (by decide),
   fun h => absurd (h.align (by decide)) (by decide), fun h => absurd (h.map (by decide)) (by decide),
   fun h => absurd (h.remap (by decide) _ rfl) (by decide), fun h => absurd (h.maps (by decide)) (by decide),
   fun h => absurd (h.msb (by decide)) (by decide), fun h => absurd (h.msb (by decide)) (by decide),
   fun h => absurd (h.check (by decide)) (by decide), fun h => absurd h.value (by decide),
   fun h => absurd (h.terminator 1 2 no (reg 5 5) rfl rfl (by decide) rfl) (by decide)⟩

/-- One failing value per check of a parameter. -/
theorem witness_IllFormedConfigurationsRefused_parameters :
    ¬ ConfigurationPasses { exCfg with numSpecial := 0 } ∧ ¬ ConfigurationPasses { exCfg with spSlot := .gpr 4 } ∧
    ¬ ConfigurationPasses { exCfg with fpSlot := .gpr 2 } ∧
    ¬ ConfigurationPasses { exCfg with listOrder := [.gpr 0, .gpr 1, .gpr 2, .gpr 3] } ∧
    ¬ ConfigurationPasses { exCfg with tplBig := some [] } ∧
    ¬ ConfigurationPasses { exCfg with gprLayout := .uninterpreted 0, gprBlockBytes := 39 } :=
  ⟨fun h => absurd h.special (by decide), fun h => absurd h.fixedSlots (by decide),
   fun h => absurd h.distinct (by decide), fun h => absurd (h.listOrder (.special 0)) (by decide),
   fun h => absurd h.template (by decide), fun h => absurd (show 8 * (4 + 1) ≤ 39 from h.layout) (by decide)⟩

end Sys2Proof.Tests
end

section
/-! PROOF. The configuration is fixed when the block is built (00_scope R9, 70_reset_and_hazards R199). -/

namespace Sys2Proof.Proofs

open Sys2Proof.Machine Sys2Proof.Laws

/-- No effect an instruction can have writes the configuration: each is made of operations that keep it. -/
theorem effect_keeps_cfg {s t : State} (h : Effect s t) : t.cfg = s.cfg := by
  cases h with
  | responded st p => rw [State.respond_cfg]
  | located a p => rw [State.ok_cfg, State.afterResolve_cfg]
  | readFailed tid p => rw [State.raise_cfg, State.afterRead_cfg]
  | loaded tid bytes p => rw [State.ok_cfg, State.alloc_cfg, State.afterRead_cfg]
  | fpResolved h S hS st p => rw [State.respond_cfg, State.fpResolve_cfg]
  | copied h S hS p => rw [State.ok_cfg, State.alloc_cfg, State.fpResolve_cfg]
  | written h S hS which x bytes st p =>
    rw [State.respond_cfg, State.setSnapshot_cfg, State.afterWrite_cfg]
  | slot o => rw [State.setSlotOut_cfg]

theorem exec_keeps_cfg {i : Instr} {s t : State} (h : exec i s = .next t) : t.cfg = s.cfg :=
  effect_keeps_cfg (effect_of_exec h)

/-- Idling, a Resume and a packet: taking an event from the port keeps the configuration too. -/
theorem step_keeps_cfg {s t : State} (h : step s = .next t) : t.cfg = s.cfg := by
  obtain ⟨-, rfl⟩ | ⟨tid, rest, -, rfl⟩ | ⟨p, rest, -, he⟩ := step_cases h
  · rfl
  · rw [State.resumeThread_cfg, State.popEvent_cfg]
  · rw [effect_keeps_cfg he, State.popEvent_cfg]

/-- Settles O53, by cases on the effects an instruction and a step can have. -/
theorem configurationNeverChanges : Obligations.ConfigurationNeverChanges :=
  ⟨fun _ _ _ h => exec_keeps_cfg h, fun _ _ h => step_keeps_cfg h, State.resetWith_cfg⟩

end Sys2Proof.Proofs
end

section
/-! PROOF. Bit fields of a word (00_scope R13, 40_operands R105): the formulas of extract and insert, and the
bits each of them gives. -/

namespace Sys2Proof.Proofs

open Sys2Proof.Machine

/-- The mask of a field, `(1 << width) - 1`, keeps the value modulo 2^width. -/
theorem and_fieldMask (v width : Nat) : v &&& ((1 <<< width) - 1) = v % 2 ^ width := by
  rw [Nat.one_shiftLeft, Nat.and_two_pow_sub_one_eq_mod]

theorem extract_eq_div_mod (w : Word32) (lsb width : Nat) :
    extract w lsb width = w.toNat / 2 ^ lsb % 2 ^ width := by
  rw [extract, and_fieldMask, Nat.shiftRight_eq_div_pow]

theorem extract_lt (w : Word32) (lsb width : Nat) : extract w lsb width < 2 ^ width := by
  rw [extract_eq_div_mod]
  exact Nat.mod_lt _ (Nat.two_pow_pos width)

theorem insertField_toNat (w : Word32) (lsb width val : Nat) :
    (insertField w lsb width val).toNat = (w.toNat ||| (val % 2 ^ width) * 2 ^ lsb) % 2 ^ 32 := by
  rw [insertField, and_fieldMask, Nat.shiftLeft_eq, BitVec.toNat_ofNat]

theorem insertField_width_zero (w : Word32) (lsb val : Nat) : insertField w lsb 0 val = w := by
  apply BitVec.eq_of_toNat_eq
  rw [insertField_toNat, Nat.pow_zero, Nat.mod_one, Nat.zero_mul, Nat.or_zero, Nat.mod_eq_of_lt w.isLt]

/-- Bit `i` of a field is bit `lsb + i` of the word, and there is none from `width` on. -/
theorem testBit_extract (w : Word32) (lsb width i : Nat) :
    (extract w lsb width).testBit i = (decide (i < width) && w.getLsbD (lsb + i)) := by
  rw [extract_eq_div_mod, Nat.testBit_mod_two_pow, Nat.testBit_div_two_pow, BitVec.getLsbD, Nat.add_comm]

/-- Bit `i` of the word after an insert: its own bit, ORed with the value's where `i` is in the field. -/
theorem getLsbD_insertField (w : Word32) (lsb width val i : Nat) (hi : i < 32) :
    (insertField w lsb width val).getLsbD i =
      (w.getLsbD i || (decide (lsb ≤ i) && (decide (i - lsb < width) && val.testBit (i - lsb)))) := by
  rw [BitVec.getLsbD, insertField_toNat, Nat.testBit_mod_two_pow, decide_eq_true hi, Bool.true_and,
    Nat.testBit_or, Nat.testBit_mul_two_pow, Nat.testBit_mod_two_pow, BitVec.getLsbD]

theorem extract_insertField {lsb width : Nat} (hfit : lsb + width ≤ 32) (w : Word32) (val : Nat) :
    extract (insertField w lsb width val) lsb width = extract w lsb width ||| val % 2 ^ width := by
  apply Nat.eq_of_testBit_eq
  intro i
  rw [Nat.testBit_or, testBit_extract, testBit_extract, Nat.testBit_mod_two_pow]
  by_cases hi : i < width
  · rw [getLsbD_insertField w lsb width val (lsb + i) (by omega), Nat.add_sub_cancel_left]
    simp [hi]
  · simp [hi]

theorem getLsbD_insertField_outside {lsb width i : Nat} (hout : i < lsb ∨ lsb + width ≤ i) (w : Word32)
    (val : Nat) : (insertField w lsb width val).getLsbD i = w.getLsbD i := by
  by_cases hi : i < 32
  · have hfield : ¬ (lsb ≤ i ∧ i - lsb < width) := by omega
    rw [getLsbD_insertField w lsb width val i hi, ← Bool.and_assoc, ← Bool.decide_and, decide_eq_false hfield,
      Bool.false_and, Bool.or_false]
  · rw [BitVec.getLsbD_of_ge _ _ (by omega), BitVec.getLsbD_of_ge _ _ (by omega)]

/-- Settles O25: the formulas, and for a field inside the word a comparison bit by bit. -/
theorem insertOrsIntoField : Obligations.InsertOrsIntoField := fun w lsb width val =>
  ⟨insertField_toNat w lsb width val, extract_eq_div_mod w lsb width, extract_lt w lsb width,
    insertField_width_zero w lsb val,
    fun hfit => ⟨extract_insertField hfit w val, fun _ hout => getLsbD_insertField_outside hout w val⟩⟩

end Sys2Proof.Proofs
end

section
/-! PROOF. The decoder (41_decoder R132 to R136): what each of its functions answers, from one row up to the
decode function, and the two commands that raise its errors. -/

namespace Sys2Proof.Proofs

open Sys2Proof.Machine

/-! The word of an instruction's bytes (20_memory R54, R56). -/

theorem assembleWord_eq_none_iff (o : ByteOrder) (bytes : List Byte) :
    assembleWord o bytes = none ↔ bytes.length < 4 := by
  match bytes with
  | [] | [_] | [_, _] | [_, _, _] => simp [assembleWord]
  | _ :: _ :: _ :: _ :: _ => simp [assembleWord]

theorem exists_assembleWord {bytes : List Byte} (o : ByteOrder) (h : 4 ≤ bytes.length) :
    ∃ w, assembleWord o bytes = some w :=
  Option.ne_none_iff_exists'.1 (mt (assembleWord_eq_none_iff o bytes).1 (Nat.not_lt.2 h))

/-! One row (R133 to R135). -/

/-- The decoder fills at most one slot per entry (R134). -/
theorem decodeArgs_length_le {w : Word32} {raws : List RawDesc} {prev : Option SlotValue}
    {l : List SlotValue} (h : decodeArgs w prev raws = some l) : l.length ≤ raws.length := by
  induction raws generalizing prev l with
  | nil => cases h; exact Nat.le_refl 0
  | cons raw rest ih =>
    rw [decodeArgs] at h
    split at h
    · cases h
    · cases h; simp
    · split at h
      · cases h
      · obtain ⟨l', hl', rfl⟩ := Option.map_eq_some_iff.1 h
        exact Nat.succ_le_succ (ih hl')

theorem padSlots_getElem? (l : List SlotValue) {k : Nat} (hk : k < 5) :
    (padSlots l)[k]? = some (l.getD k .empty) := by
  match k with
  | 0 | 1 | 2 | 3 | 4 => rfl

theorem decodeRow_eq_some_iff (row : Row) (w : Word32) (slots : Vector SlotValue 5) :
    decodeRow row w = some slots ↔
      ∃ l, decodeArgs w none row.args.toList = some l ∧ padSlots l = slots := by
  rw [decodeRow, Option.map_eq_some_iff]

theorem tryRow_eq_some_iff (row : Row) (w : Word32) (inst : Instruction) :
    tryRow row w = some inst ↔ maskMatches row w = true ∧ predHolds row w = true ∧
      ∃ slots, decodeRow row w = some slots ∧ ⟨row.opcode, slots, w, 4⟩ = inst := by
  simp [tryRow, and_assoc]

/-- What a row gives is R135's annotation of its slots. -/
theorem tryRow_result {row : Row} {w : Word32} {inst : Instruction} (h : tryRow row w = some inst) :
    inst.opcode = row.opcode ∧ inst.enc = w ∧ inst.size = 4 ∧
      ∃ l, decodeArgs w none row.args.toList = some l ∧ inst.args = padSlots l := by
  obtain ⟨-, -, slots, hslots, rfl⟩ := (tryRow_eq_some_iff row w inst).1 h
  obtain ⟨l, hl, rfl⟩ := (decodeRow_eq_some_iff row w slots).1 hslots
  exact ⟨rfl, rfl, rfl, l, hl, rfl⟩

/-! The search of the table (R135, R136). -/

theorem searchRows_cons_of_some {row : Row} {w : Word32} {inst : Instruction}
    (h : tryRow row w = some inst) (n : Nat) (rest : List Row) :
    searchRows w n (row :: rest) = some (inst, n) := by
  simp [searchRows, h]

theorem searchRows_cons_of_none {row : Row} {w : Word32} (h : tryRow row w = none) (n : Nat)
    (rest : List Row) : searchRows w n (row :: rest) = searchRows w (n + 1) rest := by
  simp [searchRows, h]

theorem searchRows_eq_none_iff (w : Word32) (n : Nat) (rows : List Row) :
    searchRows w n rows = none ↔ ∀ row ∈ rows, tryRow row w = none := by
  induction rows generalizing n with
  | nil => simp [searchRows]
  | cons row rest ih =>
    cases h : tryRow row w with
    | none => simp [searchRows_cons_of_none h, ih, h]
    | some inst => simp [searchRows_cons_of_some h, h]

/-- Row `k` decodes the word to `inst`, and every row before it rejects the word. -/
def FirstDecodes (w : Word32) (rows : List Row) (k : Nat) (inst : Instruction) : Prop :=
  ∃ row, rows[k]? = some row ∧ tryRow row w = some inst ∧
    ∀ j row', j < k → rows[j]? = some row' → tryRow row' w = none

theorem not_firstDecodes_nil (w : Word32) (k : Nat) (inst : Instruction) :
    ¬ FirstDecodes w [] k inst := by
  simp [FirstDecodes]

theorem firstDecodes_cons_zero (w : Word32) (row : Row) (rest : List Row) (inst : Instruction) :
    FirstDecodes w (row :: rest) 0 inst ↔ tryRow row w = some inst := by
  simp [FirstDecodes]

theorem firstDecodes_cons_succ (w : Word32) (row : Row) (rest : List Row) (k : Nat) (inst : Instruction) :
    FirstDecodes w (row :: rest) (k + 1) inst ↔ tryRow row w = none ∧ FirstDecodes w rest k inst := by
  constructor
  · rintro ⟨q, hq, hi, hbefore⟩
    exact ⟨hbefore 0 row k.succ_pos rfl, q, hq, hi,
      fun j row' hj => hbefore (j + 1) row' (Nat.succ_lt_succ hj)⟩
  · rintro ⟨hrow, q, hq, hi, hbefore⟩
    refine ⟨q, hq, hi, fun j row' hj hj' => ?_⟩
    cases j with
    | zero => exact Option.some.inj hj' ▸ hrow
    | succ j => exact hbefore j row' (Nat.lt_of_succ_lt_succ hj) hj'

theorem searchRows_eq_some_iff (w : Word32) (n : Nat) (rows : List Row) (inst : Instruction) (r : Nat) :
    searchRows w n rows = some (inst, r) ↔ ∃ k, n + k = r ∧ FirstDecodes w rows k inst := by
  induction rows generalizing n with
  | nil => simp [searchRows, not_firstDecodes_nil]
  | cons row rest ih =>
    rw [← Nat.or_exists_add_one]
    cases h : tryRow row w with
    | none =>
      simp [searchRows_cons_of_none h, ih, firstDecodes_cons_zero, firstDecodes_cons_succ, h,
        Nat.add_assoc, Nat.add_comm 1]
    | some i =>
      simp [searchRows_cons_of_some h, firstDecodes_cons_zero, firstDecodes_cons_succ, h, and_comm]

/-! The decode function (R132). -/

theorem decodeBytes_eq_truncated_iff (c : Cfg) (bytes : List Byte) :
    decodeBytes c bytes = .error .truncatedInput ↔ bytes.length < 4 := by
  rw [← assembleWord_eq_none_iff c.byteOrder bytes, decodeBytes]
  cases assembleWord c.byteOrder bytes with
  | none => simp
  | some w => cases h : searchRows w 0 c.table <;> simp [h]

theorem decodeBytes_eq_unknown_iff {c : Cfg} {bytes : List Byte} {w : Word32}
    (hw : assembleWord c.byteOrder bytes = some w) :
    decodeBytes c bytes = .error .unknownEncoding ↔ ∀ row ∈ c.table, tryRow row w = none := by
  rw [← searchRows_eq_none_iff w 0 c.table, decodeBytes, hw]
  cases h : searchRows w 0 c.table <;> simp [h]

theorem decodeBytes_eq_ok_iff (c : Cfg) (bytes : List Byte) (inst : Instruction) (r : Nat) :
    decodeBytes c bytes = .ok (inst, r) ↔
      ∃ w, assembleWord c.byteOrder bytes = some w ∧ FirstDecodes w c.table r inst := by
  have hsearch (w : Word32) : searchRows w 0 c.table = some (inst, r) ↔ FirstDecodes w c.table r inst := by
    simp [searchRows_eq_some_iff]
  rw [decodeBytes]
  cases assembleWord c.byteOrder bytes with
  | none => simp
  | some w => cases h : searchRows w 0 c.table <;> simp [← hsearch, h]

/-! The two commands that decode (R131, 43_classifier R166). -/

theorem exec_decode_of_ok {bytes : List Byte} {s : State} {inst : Instruction} {r : Nat}
    (h : decodeBytes s.cfg bytes = .ok (inst, r)) :
    exec (.decode bytes) s = .next (s.ok (.decoded inst r)) := by
  simp [exec, execDecode, h]

theorem exec_decode_of_error {bytes : List Byte} {s : State} {e : DecodeFailure}
    (h : decodeBytes s.cfg bytes = .error e) :
    exec (.decode bytes) s = .next (s.raise (failureStatus e)) := by
  simp [exec, execDecode, h]

theorem exec_decodeOne_of_error {bytes : List Byte} {hOpt : Option Nat} {s : State} {e : DecodeFailure}
    (hk : s.handleKnown hOpt = true) (h : decodeBytes s.cfg bytes = .error e) (addr : Word)
    (cur : ThreadId) :
    exec (.decodeOne bytes addr hOpt cur) s = .next (s.raise (failureStatus e)) := by
  simp [exec, execDecodeOne, hk, h]

/-- Settles O6: the commands' equations, and a split on the three results `decode(bytes)` can have. -/
theorem decodeRespondsWithDecodeFunction : Obligations.DecodeRespondsWithDecodeFunction := by
  intro bytes s
  refine ⟨rfl, fun _ _ => exec_decode_of_ok,
    fun hlt => exec_decode_of_error ((decodeBytes_eq_truncated_iff s.cfg bytes).2 hlt),
    fun w hw hrows => exec_decode_of_error ((decodeBytes_eq_unknown_iff hw).2 hrows), ?_⟩
  rcases h : decodeBytes s.cfg bytes with (_ | _) | ⟨inst, r⟩
  · exact .inr (.inl ((decodeBytes_eq_truncated_iff s.cfg bytes).1 h))
  · by_cases hlt : bytes.length < 4
    · exact .inr (.inl hlt)
    · obtain ⟨w, hw⟩ := exists_assembleWord s.cfg.byteOrder (Nat.not_lt.1 hlt)
      exact .inr (.inr ⟨w, hw, (decodeBytes_eq_unknown_iff hw).1 h⟩)
  · exact .inl ⟨inst, r, rfl⟩

/-- Settles O8: the search finds nothing exactly when every row rejects, an empty table's rows among them. -/
theorem unknownEncodingWhenEveryRowRejects : Obligations.UnknownEncodingWhenEveryRowRejects := by
  refine ⟨fun c bytes hlen => ?_, decodeBytes_eq_truncated_iff, fun c bytes htable hlen => ?_,
    fun bytes addr hOpt cur s w hw hrows => ?_⟩
  · obtain ⟨w, hw⟩ := exists_assembleWord c.byteOrder hlen
    exact ⟨w, hw, decodeBytes_eq_unknown_iff hw⟩
  · obtain ⟨w, hw⟩ := exists_assembleWord c.byteOrder hlen
    exact (decodeBytes_eq_unknown_iff hw).2 (by simp [htable])
  · have hunknown := (decodeBytes_eq_unknown_iff hw).2 hrows
    exact ⟨exec_decode_of_error hunknown, fun hk => exec_decodeOne_of_error hk hunknown addr cur⟩

/-- Settles O9: the search in table order, by induction on the rows, and what one row gives. -/
theorem firstDecodingRowWins : Obligations.FirstDecodingRowWins := by
  refine ⟨fun c bytes inst r => ?_, fun row w inst h => ?_⟩
  · simp only [decodeBytes_eq_ok_iff, FirstDecodes, exists_and_left]
  · obtain ⟨hop, henc, hsize, l, hl, hargs⟩ := tryRow_result h
    have hlen : l.length ≤ 5 := by simpa using decodeArgs_length_le hl
    exact ⟨hop, henc, hsize, l, hl, hlen, fun k hk => hargs ▸ padSlots_getElem? l hk⟩

end Sys2Proof.Proofs
end

section
/-! PROOF. The register snapshot's load and its readers (42_snapshot R141, R142, R144 to R146): what each command
answers, an equation per outcome. -/

namespace Sys2Proof.Proofs

open Sys2Proof.Machine Sys2Proof.Laws

/-! LOAD_SNAPSHOT (R141). -/

theorem exec_loadSnapshot_of_ok {tid : ThreadId} {s : State} {bytes : List Byte}
    (ha : s.readAnswer tid = .ok bytes) (hlen : bytes.length = s.cfg.gprBlockBytes) :
    exec (.loadSnapshot tid) s =
      .next (((s.afterRead tid).alloc ⟨tid, gprParse s.cfg bytes, .pending, true⟩).ok (.handle s.next)) := by
  simp [exec, execLoadSnapshot, ha, hlen]

theorem exec_loadSnapshot_of_malformed {tid : ThreadId} {s : State} {bytes : List Byte}
    (ha : s.readAnswer tid = .ok bytes) (hlen : bytes.length ≠ s.cfg.gprBlockBytes) :
    exec (.loadSnapshot tid) s =
      .next ((s.afterRead tid).raise .registerTransportError (.cause .malformed)) := by
  simp [exec, execLoadSnapshot, ha, hlen]

theorem exec_loadSnapshot_of_err {tid : ThreadId} {s : State} {e : TransportErr}
    (ha : s.readAnswer tid = .err e) :
    exec (.loadSnapshot tid) s =
      .next ((s.afterRead tid).raise .registerTransportError (.cause (.transport e))) := by
  simp [exec, execLoadSnapshot, ha]

/-- Settles O34: a split on the answer of the TRead and, for a block, on its length; each case meets one of the
three conditional clauses and the premises of the other two are false in it. -/
theorem loadSnapshotReadsOneBlock : Obligations.LoadSnapshotReadsOneBlock := by
  intro tid s
  refine ⟨rfl, ?_⟩
  rcases ha : s.readAnswer tid with bytes | e
  · by_cases hlen : bytes.length = s.cfg.gprBlockBytes
    · refine ⟨_, exec_loadSnapshot_of_ok ha hlen, by simp [ha], rfl, rfl, rfl, rfl, ?_, nofun, ?_⟩
      · rintro _ ⟨⟩ -
        exact ⟨State.snapshot_alloc_new _ _, fun j hj => State.snapshot_alloc_old _ _ hj, rfl, rfl⟩
      · rintro _ ⟨⟩ hne
        exact absurd hlen hne
    · refine ⟨_, exec_loadSnapshot_of_malformed ha hlen, by simp [ha], rfl, rfl, rfl, rfl, ?_, nofun, ?_⟩
      · rintro _ ⟨⟩ heq
        exact absurd heq hlen
      · rintro _ ⟨⟩ -
        exact ⟨rfl, rfl, rfl⟩
  · refine ⟨_, exec_loadSnapshot_of_err ha, by simp [ha], rfl, rfl, rfl, rfl, nofun, ?_, nofun⟩
    rintro _ ⟨⟩
    exact ⟨rfl, rfl, rfl⟩

/-! AS_REGISTER_LIST (R142). -/

theorem exec_asRegisterList_unknown {h : Nat} {s : State} (hn : s.snapshot h = none) (fp : Bool) :
    exec (.asRegisterList fp h) s = .next (s.raise .invalidHandle) :=
  congrArg Host.Outcome.next (s.withSnapshot_none _ hn)

theorem exec_asRegisterList_slots {h : Nat} {s : State} {S : Snapshot} (hS : s.snapshot h = some S) :
    exec (.asRegisterList false h) s = .next (s.ok (.registers (slotList s.cfg S.reg) false)) :=
  congrArg Host.Outcome.next (s.withSnapshot_some _ hS)

/-- The response to AS_REGISTER_LIST with `includeFP`, by the outcome of the floating-point load (R142). -/
def fpListResponse (c : Cfg) (f : RegFile) : FpResult → Response
  | .loaded b => ⟨.ok, .registers (slotList c f ++ fpList c b) false⟩
  | .unavailable => ⟨.ok, .registers (slotList c f) true⟩
  | .failed cause => ⟨.registerTransportError, .cause cause⟩

/-- Whatever the outcome, `fpResolve(h)` and the outcome's response are all AS_REGISTER_LIST with `includeFP`
does. -/
theorem exec_asRegisterList_fp {h : Nat} {s : State} {S : Snapshot} (hS : s.snapshot h = some S) :
    exec (.asRegisterList true h) s = .next ((s.fpResolve h S).respond
      (fpListResponse s.cfg S.reg (s.fpResult S)).status
      (fpListResponse s.cfg S.reg (s.fpResult S)).payload) := by
  refine congrArg Host.Outcome.next ((s.withSnapshot_some _ hS).trans ?_)
  cases s.fpResult S <;> rfl

/-- `fpResolve(h)` calls TReadFp once when the loader is pending, and makes no call otherwise (R143). -/
theorem fpResolve_trace_cases (s : State) (h : Nat) (S : Snapshot) :
    (S.fp = .pending ∧ s.fpResult S = fpOutcome s.cfg (s.fpAnswer S.tid) ∧
      (s.fpResolve h S).trace = s.trace ++ [.readFp S.tid (s.fpAnswer S.tid)]) ∨
    (S.fp = .resolved (s.fpResult S) ∧ (s.fpResolve h S).trace = s.trace) := by
  cases hfp : S.fp with
  | pending =>
    refine .inl ⟨rfl, s.fpResult_of_pending hfp, ?_⟩
    rw [s.fpResolve_of_pending hfp, State.setSnapshot_trace, State.afterReadFp_trace]
  | resolved r =>
    exact .inr ⟨by rw [s.fpResult_of_resolved hfp], by rw [s.fpResolve_of_resolved hfp]⟩

/-- Settles O35: with `includeFP` the next state is `fpResolve(h)` and one response, so the frame is that of
`fpResolve(h)`, and the response follows the outcome. -/
theorem asRegisterListLists : Obligations.AsRegisterListLists := by
  refine fun h s => ⟨rfl, rfl, fun fp hn => exec_asRegisterList_unknown hn fp, ?_⟩
  rintro S _ hS rfl
  have hresponse : ((s.fpResolve h S).respond (fpListResponse s.cfg S.reg (s.fpResult S)).status
      (fpListResponse s.cfg S.reg (s.fpResult S)).payload).responses =
      s.responses ++ [fpListResponse s.cfg S.reg (s.fpResult S)] := by
    rw [State.respond_responses, State.fpResolve_responses]
  refine ⟨exec_asRegisterList_slots hS, _, s.fpResult S, exec_asRegisterList_fp hS,
    fpResolve_trace_cases s h S, s.snapshot_fpResolve_same hS,
    fun j hj => s.snapshot_fpResolve_other S hj, s.fpResolve_next h S, s.fpResolve_cfg h S,
    s.fpResolve_pending h S, s.fpResolve_resolves h S, s.fpResolve_slotOut h S,
    fun b hb => ?_, fun hu => ?_, fun c hc => ?_⟩
  · rw [hresponse, hb]; rfl
  · rw [hresponse, hu]; rfl
  · rw [hresponse, hc]; rfl

/-! PROGRAM_COUNTER, STACK_POINTER and FRAME_POINTER (R144 to R146). -/

/-- The state after the value of slot `r` of the snapshot with handle `h` has been answered. -/
def slotAnswered (s : State) (h : Nat) (r : RegSel) : State :=
  s.withSnapshot h fun S => s.ok (.value (readSlot S.reg r))

theorem slotAnswered_of_some {s : State} {h : Nat} {S : Snapshot} (hS : s.snapshot h = some S) (r : RegSel) :
    slotAnswered s h r = s.ok (.value (readSlot S.reg r)) :=
  s.withSnapshot_some _ hS

theorem slotAnswered_of_none {s : State} {h : Nat} (hn : s.snapshot h = none) (r : RegSel) :
    slotAnswered s h r = s.raise .invalidHandle :=
  s.withSnapshot_none _ hn

theorem exec_programCounter (h : Nat) (s : State) :
    exec (.programCounter h) s = .next (slotAnswered s h s.cfg.pcSlot) := rfl

theorem exec_stackPointer (h : Nat) (s : State) :
    exec (.stackPointer h) s = .next (slotAnswered s h s.cfg.spSlot) := rfl

theorem exec_framePointer (h : Nat) (s : State) :
    exec (.framePointer h) s = .next (slotAnswered s h s.cfg.fpSlot) := rfl

/-- GET below NUM_GPR (R147). -/
theorem exec_get_of_lt {idx : Word} {s : State} (hidx : idx.toNat < s.cfg.numGpr) (h : Nat) :
    exec (.get h idx) s = .next (slotAnswered s h (.gpr idx.toNat)) := by
  simp [exec, execGet, slotAnswered, hidx]

/-- Settles O37: each accessor answers its fixed slot, and GET at `i` answers slot `gpr i`. -/
theorem accessorsReadFixedSlots : Obligations.AccessorsReadFixedSlots := by
  intro h s
  simp only [exec_programCounter, exec_stackPointer, exec_framePointer]
  refine ⟨fun S hS => ?_, fun hn => ?_, rfl, rfl, rfl, fun i hi hi64 => ?_⟩
  · simp only [slotAnswered_of_some hS, and_self]
  · simp only [slotAnswered_of_none hn, and_self]
  · have hidx : (BitVec.ofNat 64 i).toNat = i := by
      rw [BitVec.toNat_ofNat, Nat.mod_eq_of_lt hi64]
    have hget : exec (.get h (BitVec.ofNat 64 i)) s = .next (slotAnswered s h (.gpr i)) := by
      rw [exec_get_of_lt (by rwa [hidx]) h, hidx]
    refine ⟨?_, ?_, ?_⟩ <;> (intro hslot; rw [hget, hslot])

end Sys2Proof.Proofs
end

section
/-! PROOF. Which command raises which error (60_exceptions R179, R181, R182): UnknownRegister by GET alone,
TruncatedInput by the two commands that decode, UnsupportedRegisterOperation by the setters. -/

namespace Sys2Proof.Proofs

open Sys2Proof.Machine

/-! UnknownRegister (R181). -/

/-- GET from index NUM_GPR on, the handle known. -/
theorem exec_get_of_ge {h : Nat} {idx : Word} {s : State} {S : Snapshot} (hS : s.snapshot h = some S)
    (hidx : s.cfg.numGpr ≤ idx.toNat) : exec (.get h idx) s = .next (s.raise .unknownRegister) := by
  simp [exec, execGet, s.withSnapshot_some _ hS, Nat.not_lt.2 hidx]

theorem registerTarget_of_ge {s : State} {id : RegId} (hnum : s.cfg.numGpr ≤ id.num) (hOpt : Option Nat)
    (cur : ThreadId) : registerTarget s id hOpt cur = none := by
  unfold registerTarget
  split
  · exact if_neg fun ⟨_, _, hlt⟩ => Nat.not_lt.2 hnum hlt
  · rfl

/-- The one response `t` may have beyond those of `s` is not UnknownRegister. -/
def AddsNoUnknownRegister (s t : State) : Prop :=
  ∀ r, t.responses = s.responses ++ [r] → r.status ≠ .unknownRegister

/-- One response with another status, from a state whose response stream is still that of `s`. -/
theorem respond_addsNoUnknownRegister {s u : State} (hu : u.responses = s.responses) {st : Status}
    (hst : st ≠ .unknownRegister) (p : Payload) : AddsNoUnknownRegister s (u.respond st p) := by
  intro r hr
  rw [State.respond_responses, hu, List.append_cancel_left_eq, List.singleton_inj] at hr
  exact hr ▸ hst

/-- A descriptor responds nothing. -/
theorem setSlotOut_addsNoUnknownRegister (s : State) (o : SlotOut) :
    AddsNoUnknownRegister s (s.setSlotOut o) := by
  intro r hr
  simp at hr

/-- An unknown handle is answered InvalidHandle, so only what follows the handle check counts. -/
theorem withSnapshot_addsNoUnknownRegister {s : State} {k : Snapshot → State}
    (hk : ∀ S, AddsNoUnknownRegister s (k S)) (h : Nat) :
    AddsNoUnknownRegister s (s.withSnapshot h k) := by
  cases hS : s.snapshot h with
  | none => exact s.withSnapshot_none k hS ▸ respond_addsNoUnknownRegister rfl (by decide) .none
  | some S => exact s.withSnapshot_some k hS ▸ hk S

theorem writeBack_addsNoUnknownRegister (s : State) (h : Nat) (S : Snapshot) (which : MutableReg) (v : Word) :
    AddsNoUnknownRegister s (s.writeBack h S which v) := by
  cases hm : isMutable s.cfg which with
  | false => exact s.writeBack_unsupported hm ▸ respond_addsNoUnknownRegister rfl (by decide) .none
  | true =>
    cases ha : s.writeAnswer S.tid (gprSerialize s.cfg (writeSlot S.reg (mutableSlot s.cfg which) v)) with
    | ok => exact s.writeBack_ok hm ha ▸ respond_addsNoUnknownRegister rfl (by decide) .none
    | err e =>
      exact s.writeBack_failed hm ha ▸ respond_addsNoUnknownRegister rfl (by decide) (.cause (.transport e))

theorem afterLocate_ok_addsNoUnknownRegister (s : State) (t : Option Word) (p : Payload) :
    AddsNoUnknownRegister s ((s.afterLocate t).ok p) := by
  cases t <;> exact respond_addsNoUnknownRegister rfl (by decide) p

theorem failureStatus_ne_unknownRegister (e : DecodeFailure) : failureStatus e ≠ .unknownRegister := by
  cases e <;> decide

/-- Every instruction but GET from index NUM_GPR on responds some other status, or nothing. -/
theorem exec_addsNoUnknownRegister (i : Instr) (s : State)
    (hget : ∀ h idx, i = .get h idx → idx.toNat < s.cfg.numGpr) :
    ∃ t, exec i s = .next t ∧ AddsNoUnknownRegister s t := by
  cases i with
  | decode bytes =>
    refine ⟨_, rfl, ?_⟩
    split
    · exact respond_addsNoUnknownRegister rfl (by decide) _
    · exact respond_addsNoUnknownRegister rfl (failureStatus_ne_unknownRegister _) _
  | resolveTarget inst addr hOpt cur =>
    refine ⟨_, rfl, ?_⟩
    split
    · exact afterLocate_ok_addsNoUnknownRegister s _ _
    · exact respond_addsNoUnknownRegister rfl (by decide) _
  | decodeOne bytes addr hOpt cur =>
    refine ⟨_, rfl, ?_⟩
    split
    · split
      · exact respond_addsNoUnknownRegister rfl (failureStatus_ne_unknownRegister _) _
      · exact afterLocate_ok_addsNoUnknownRegister s _ _
    · exact respond_addsNoUnknownRegister rfl (by decide) _
  | classify | matchPrologue => exact ⟨_, rfl, respond_addsNoUnknownRegister rfl (by decide) _⟩
  | loadSnapshot tid =>
    refine ⟨_, rfl, ?_⟩
    split
    · exact respond_addsNoUnknownRegister rfl (by decide) _
    · split <;> exact respond_addsNoUnknownRegister rfl (by decide) _
  | asRegisterList includeFp h =>
    refine ⟨_, rfl, withSnapshot_addsNoUnknownRegister (fun S => ?_) h⟩
    split
    · split <;> exact respond_addsNoUnknownRegister (s.fpResolve_responses h S) (by decide) _
    · exact respond_addsNoUnknownRegister rfl (by decide) _
  | copy h =>
    refine ⟨_, rfl, withSnapshot_addsNoUnknownRegister (fun S => ?_) h⟩
    split <;> exact respond_addsNoUnknownRegister (s.fpResolve_responses h S) (by decide) _
  | get h idx =>
    refine ⟨_, rfl, withSnapshot_addsNoUnknownRegister (fun S => ?_) h⟩
    rw [if_pos (hget h idx rfl)]
    exact respond_addsNoUnknownRegister rfl (by decide) _
  | programCounter h | stackPointer h | framePointer h | setDx h =>
    exact ⟨_, rfl, withSnapshot_addsNoUnknownRegister
      (fun S => respond_addsNoUnknownRegister rfl (by decide) _) h⟩
  | setPc h v =>
    exact ⟨_, rfl, withSnapshot_addsNoUnknownRegister (fun S => writeBack_addsNoUnknownRegister s h S .pc v) h⟩
  | setSp h v =>
    exact ⟨_, rfl, withSnapshot_addsNoUnknownRegister (fun S => writeBack_addsNoUnknownRegister s h S .sp v) h⟩
  | descNone | integer | mappedInteger | mostSignificantBit | register | optionalRegister | registerPair
  | pcRelative | checkAgainstPrevious => exact ⟨_, rfl, setSlotOut_addsNoUnknownRegister s _⟩

/-- Settles O39: GET's own equation; the other instructions' responses, by cases on the instruction; and the
range check of a register target, which fails without an error. -/
theorem unknownRegisterOnlyFromGet : Obligations.UnknownRegisterOnlyFromGet := by
  refine ⟨fun h idx s S hS hidx => exec_get_of_ge hS hidx, fun i s t r ht hr hst => ?_,
    fun id s hOpt cur hnum => registerTarget_of_ge hnum hOpt cur⟩
  by_contra hnot
  obtain ⟨u, hu, hadds⟩ := exec_addsNoUnknownRegister i s fun h idx hi =>
    Nat.not_le.1 fun hidx => hnot ⟨h, idx, hi, hidx⟩
  obtain rfl : u = t := Host.Outcome.next.inj (hu.symm.trans ht)
  exact hadds r hr hst

/-! TruncatedInput (R179). -/

/-- Settles O7: fewer than four bytes are the one reason of the decode error both commands raise. -/
theorem truncatedInputBelowFourBytes : Obligations.TruncatedInputBelowFourBytes := by
  intro bytes addr hOpt cur s
  have htrunc := decodeBytes_eq_truncated_iff s.cfg bytes
  exact ⟨htrunc, fun hlt => exec_decode_of_error (htrunc.2 hlt),
    fun hlt hk => exec_decodeOne_of_error hk (htrunc.2 hlt) addr cur⟩

/-! UnsupportedRegisterOperation (R182). -/

theorem exec_setPc_of_some {h : Nat} {s : State} {S : Snapshot} (hS : s.snapshot h = some S) (v : Word) :
    exec (.setPc h v) s = .next (s.writeBack h S .pc v) :=
  congrArg Host.Outcome.next (s.withSnapshot_some _ hS)

theorem exec_setSp_of_some {h : Nat} {s : State} {S : Snapshot} (hS : s.snapshot h = some S) (v : Word) :
    exec (.setSp h v) s = .next (s.writeBack h S .sp v) :=
  congrArg Host.Outcome.next (s.withSnapshot_some _ hS)

theorem exec_setDx_of_some {h : Nat} {s : State} {S : Snapshot} (hS : s.snapshot h = some S) (v : Word) :
    exec (.setDx h v) s = .next (s.raise .unsupportedRegisterOperation) :=
  congrArg Host.Outcome.next (s.withSnapshot_some _ hS)

/-- Settles O44: past the handle check SET_DX raises at once, and the write-back of a register that is not
mutable raises before its TWrite. -/
theorem unsupportedSettersRaise : Obligations.UnsupportedSettersRaise := by
  intro h v s S hS
  refine ⟨exec_setDx_of_some hS v, fun hpc => ?_, fun hsp => ?_⟩
  · rw [exec_setPc_of_some hS, s.writeBack_unsupported (which := .pc) hpc]
  · rw [exec_setSp_of_some hS, s.writeBack_unsupported (which := .sp) hsp]

end Sys2Proof.Proofs
end

section
/-! PROOF. The block's own encodings (30_encoding R82, R90 to R92): which headers select a command, and decoding
as the inverse of encoding. -/

namespace Sys2Proof.Proofs

open Sys2Proof.Machine

/-! The three parts of a header (R90). -/

/-- A header is its reserved half, its flags byte and its code byte, as a number. -/
theorem header_toNat (header : Word32) : header.toNat =
    65536 * (headerReserved header).toNat + 256 * (headerFlags header).toNat + (headerCode header).toNat := by
  simp only [headerReserved, headerFlags, headerCode, BitVec.extractLsb'_toNat, Nat.shiftRight_eq_div_pow]
  have := header.isLt
  omega

/-- Headers with the same three parts are the same. -/
theorem header_eq_iff (a b : Word32) : a = b ↔
    headerCode a = headerCode b ∧ headerReserved a = headerReserved b ∧ headerFlags a = headerFlags b := by
  refine ⟨fun h => h ▸ ⟨rfl, rfl, rfl⟩, fun ⟨hc, hr, hf⟩ => BitVec.eq_of_toNat_eq ?_⟩
  rw [header_toNat a, header_toNat b, hc, hr, hf]

/-- R92's mask of AS_REGISTER_LIST leaves bit 8 of a header free, and fixes every other. -/
theorem and_maskBits_asRegisterList (header : Word32) :
    header &&& Command.maskBits .asRegisterList = Command.matchBits .asRegisterList ↔
      header = 0x011 ∨ header = 0x111 := by
  constructor
  · intro h
    have hsplit : header = (header &&& Command.maskBits .asRegisterList) ||| (header &&& 0x100) := by
      rw [← BitVec.and_or_distrib_left]
      exact (BitVec.and_allOnes).symm
    have hbit : header &&& 0x100 = if header.getLsbD 8 then 0x100 else 0 := BitVec.and_twoPow header 8
    rw [hsplit, h, hbit]
    split
    · exact .inr rfl
    · exact .inl rfl
  · rintro (rfl | rfl) <;> rfl

/-- R92's mask and match fit a header exactly when its parts are as R90 and R91 have them. -/
theorem selectedBy_iff (c : Command) (header : Word32) :
    header &&& c.maskBits = c.matchBits ↔
      headerCode header = c.code ∧ headerReserved header = 0 ∧
        (headerFlags header = 0 ∨ (c = .asRegisterList ∧ headerFlags header = 1)) := by
  by_cases hc : c = .asRegisterList
  · subst hc
    have hclear : header = 0x011 ↔
        headerCode header = 0x11 ∧ headerReserved header = 0 ∧ headerFlags header = 0 :=
      header_eq_iff header 0x011
    have hset : header = 0x111 ↔
        headerCode header = 0x11 ∧ headerReserved header = 0 ∧ headerFlags header = 1 :=
      header_eq_iff header 0x111
    rw [and_maskBits_asRegisterList, hclear, hset, ← and_or_left, ← and_or_left]
    simp only [Command.code, true_and]
  · have hmask : c.maskBits = BitVec.allOnes 32 := by
      cases c with
      | asRegisterList => exact absurd rfl hc
      | _ => rfl
    have hcode : headerCode c.matchBits = c.code := by cases c <;> rfl
    have hreserved : headerReserved c.matchBits = 0 := by cases c <;> rfl
    have hflags : headerFlags c.matchBits = 0 := by cases c <;> rfl
    rw [hmask, BitVec.and_allOnes, header_eq_iff, hcode, hreserved, hflags]
    simp only [hc, false_and, or_false]

/-! The command a header selects (R92). -/

/-- R91's codes name one command each. -/
theorem command_code_injective {c d : Command} (h : c.code = d.code) : c = d := by
  have hfind : ∀ e : Command, allCommands.find? (·.code == e.code) = some e := by
    intro e; cases e <;> rfl
  exact Option.some.inj ((hfind c).symm.trans (h ▸ hfind d))

theorem selectedBy_unique {header : Word32} {c d : Command} (hc : header &&& c.maskBits = c.matchBits)
    (hd : header &&& d.maskBits = d.matchBits) : c = d :=
  command_code_injective (((selectedBy_iff c header).1 hc).1.symm.trans ((selectedBy_iff d header).1 hd).1)

/-- No header fits two commands, so the search finds the one it fits, wherever it stands in the table. -/
theorem selectCommand_eq_some_iff (header : Word32) (c : Command) :
    selectCommand header = some c ↔ header &&& c.maskBits = c.matchBits := by
  have hfits {d : Command} (hd : selectCommand header = some d) : header &&& d.maskBits = d.matchBits := by
    exact eq_of_beq (List.find?_some (p := fun c : Command => c.selectedBy header) hd)
  refine ⟨hfits, fun hc => ?_⟩
  have hmem : c ∈ allCommands := by cases c <;> decide
  have hsome : (selectCommand header).isSome = true := List.find?_isSome.2 ⟨c, hmem, beq_iff_eq.2 hc⟩
  obtain ⟨d, hd⟩ := Option.isSome_iff_exists.1 hsome
  rw [hd, selectedBy_unique (hfits hd) hc]

/-- Settles O3: R92's comparison said of the parts of a header, for AS_REGISTER_LIST and for the others. -/
theorem headerSelectsByCodeAndFlags : Obligations.HeaderSelectsByCodeAndFlags :=
  ⟨fun header c => (selectCommand_eq_some_iff header c).trans (selectedBy_iff c header),
    fun _ _ _ hc hd => selectedBy_unique hc hd⟩

/-! Decoding what was encoded. -/

theorem selectCommand_encodeHeader (c : Command) : selectCommand (encodeHeader c false) = some c := by
  cases c <;> rfl

theorem selectCommand_encodeHeader_asRegisterList (fp : Bool) :
    selectCommand (encodeHeader .asRegisterList fp) = some .asRegisterList := by
  cases fp <;> rfl

theorem headerIncludeFp_encodeHeader (c : Command) (fp : Bool) :
    headerIncludeFp (encodeHeader c fp) = fp := by
  cases fp <;> cases c <;> rfl

theorem decodeEntry_encodeEntry (e : ArgEntry) : decodeEntry (encodeEntry e) = some e := by
  rcases e with _ | d
  · rfl
  · cases d <;> rfl

theorem decodePacket_of_selectCommand {header : Word32} {c : Command} (h : selectCommand header = some c)
    (o : Operands) :
    decodePacket (.command header o) = .ok (c.withOperands (headerIncludeFp header) o) := by
  simp [decodePacket, h]

/-- A command other than AS_REGISTER_LIST, encoded, decodes to itself with the operands of its packet. -/
theorem decodePacket_encodeHeader (c : Command) (o : Operands) :
    decodePacket (.command (encodeHeader c false) o) = .ok (c.withOperands false o) := by
  rw [decodePacket_of_selectCommand (selectCommand_encodeHeader c), headerIncludeFp_encodeHeader]

theorem decodePacket_encodeEntry (e : ArgEntry) (w : Word32) (prev : Option SlotValue) :
    decodePacket (.descriptor (encodeEntry e) w prev) = .ok (entryInstr e w prev) := by
  simp [decodePacket, decodeEntry_encodeEntry]

/-- Settles O4: a command's header selects it, its operand bundle gives its operands back, and a descriptor's
tag and fields give its entry back. -/
theorem decodeInvertsEncode : Obligations.DecodeInvertsEncode := by
  intro i
  cases i with
  | decode | classify | resolveTarget | decodeOne | matchPrologue | loadSnapshot | programCounter
  | stackPointer | framePointer | get | copy | setPc | setSp | setDx => exact decodePacket_encodeHeader _ _
  | asRegisterList fp h =>
    rw [encode, decodePacket_of_selectCommand (selectCommand_encodeHeader_asRegisterList fp),
      headerIncludeFp_encodeHeader]
    rfl
  | descNone | integer | mappedInteger | mostSignificantBit | register | optionalRegister | registerPair
  | pcRelative | checkAgainstPrevious => exact decodePacket_encodeEntry _ _ _

/-- Settles O5: each word is decoded by computation. -/
theorem specWordsDecode : Obligations.SpecWordsDecode := by
  unfold Obligations.SpecWordsDecode
  decide

end Sys2Proof.Proofs
end

section
/-! PROOF. The invariant of the block: a rule for each operation on the state, and from these that every effect of
an instruction, and so every step, keeps it; and that the reset state meets it. -/

namespace Sys2Proof.Proofs

open Sys2Proof.Machine Sys2Proof.Laws Sys2Proof.Safety

/-! The invariant, snapshot by snapshot. -/

/-- What the invariant says of one snapshot. -/
structure SnapshotOk (c : Cfg) (S : Snapshot) : Prop where
  shape : RegShape c S.reg
  fp : FpShape c S.fp
  owned : S.live = false → S.fp ≠ .pending

/-- What the invariant says of the store. -/
structure StoreOk (s : State) : Prop where
  handles : HandlesSequential s
  snapshots : ∀ hS ∈ s.store, SnapshotOk s.cfg hS.2

/-- The invariant, with what it says of each snapshot put together. -/
theorem inv_iff (s : State) : Inv s ↔
    cfgWf s.cfg = true ∧ StoreOk s ∧ FpReadsAtMostOnce s ∧ NoUnavailableStatus s := by
  constructor
  · rintro ⟨hcfg, hhandles, hregs, hfp, howned, hreads, hstatus⟩
    exact ⟨hcfg, ⟨hhandles, fun hS hm => ⟨hregs hS hm, hfp hS hm, howned hS hm⟩⟩, hreads, hstatus⟩
  · rintro ⟨hcfg, ⟨hhandles, hsnaps⟩, hreads, hstatus⟩
    exact ⟨hcfg, hhandles, fun hS hm => (hsnaps hS hm).shape, fun hS hm => (hsnaps hS hm).fp,
      fun hS hm => (hsnaps hS hm).owned, hreads, hstatus⟩

theorem snapshotOk_of_inv {s : State} (hi : Inv s) {h : Nat} {S : Snapshot} (hS : s.snapshot h = some S) :
    SnapshotOk s.cfg S :=
  ((inv_iff s).1 hi).2.1.snapshots _ (mem_keys_of_lookup hS)

/-- The fields the invariant speaks of, unchanged but for trace entries that are no TReadFp. -/
theorem inv_of_sameStore {s t : State} (hi : Inv s) (hcfg : t.cfg = s.cfg) (hstore : t.store = s.store)
    (hnext : t.next = s.next)
    (htrace : ∀ tid, t.trace.countP (isReadFpOf tid) = s.trace.countP (isReadFpOf tid))
    (hstatus : NoUnavailableStatus t) : Inv t where
  cfg_wf := hcfg ▸ hi.cfg_wf
  handles := by rw [HandlesSequential, hstore, hnext]; exact hi.handles
  registers := by rw [RegistersShaped, hstore, hcfg]; exact hi.registers
  fp := by rw [FpShaped, hstore, hcfg]; exact hi.fp
  owned := by rw [OwnedResolved, hstore]; exact hi.owned
  fpReads := fun tid => by rw [htrace, hstore]; exact hi.fpReads tid
  statuses := hstatus

/-! The operations that leave the store alone. -/

theorem inv_respond {s : State} (hi : Inv s) {st : Status} (hst : st ≠ .floatingPointUnavailable) (p : Payload) :
    Inv (s.respond st p) := by
  refine inv_of_sameStore hi rfl rfl rfl (fun _ => rfl) fun r hr => ?_
  rcases List.mem_append.1 hr with hr | hr
  · exact hi.statuses r hr
  · exact List.mem_singleton.1 hr ▸ hst

theorem inv_afterRead {s : State} (hi : Inv s) (tid : ThreadId) : Inv (s.afterRead tid) :=
  inv_of_sameStore hi rfl rfl rfl (fun _ => by simp [isReadFpOf]) hi.statuses

theorem inv_afterWrite {s : State} (hi : Inv s) (tid : ThreadId) (bytes : List Byte) :
    Inv (s.afterWrite tid bytes) :=
  inv_of_sameStore hi rfl rfl rfl (fun _ => by simp [isReadFpOf]) hi.statuses

theorem inv_afterResolve {s : State} (hi : Inv s) (a : Word) : Inv (s.afterResolve a) :=
  inv_of_sameStore hi rfl rfl rfl (fun _ => rfl) hi.statuses

theorem inv_setSlotOut {s : State} (hi : Inv s) (o : SlotOut) : Inv (s.setSlotOut o) :=
  inv_of_sameStore hi rfl rfl rfl (fun _ => rfl) hi.statuses

theorem inv_popEvent {s : State} (hi : Inv s) : Inv s.popEvent :=
  inv_of_sameStore hi rfl rfl rfl (fun _ => rfl) hi.statuses

/-! The operations on the store. -/

/-- Writing a handle that names a snapshot changes no key. -/
theorem keys_setSnapshot {s : State} (hq : HandlesSequential s) {h : Nat} {S : Snapshot}
    (hS : s.snapshot h = some S) (T : Snapshot) :
    (s.setSnapshot h T).store.map (·.1) = s.store.map (·.1) :=
  keys_storeInsert_known (handles_sorted hq) T (List.mem_map_of_mem (mem_keys_of_lookup hS))

theorem handles_setSnapshot {s : State} (hq : HandlesSequential s) {h : Nat} {S : Snapshot}
    (hS : s.snapshot h = some S) (T : Snapshot) : HandlesSequential (s.setSnapshot h T) :=
  (keys_setSnapshot hq hS T).trans hq

/-- With sequential handles an allocation appends the new snapshot to the store (10_state R26). -/
theorem alloc_store_eq {s : State} (hq : HandlesSequential s) (S : Snapshot) :
    (s.alloc S).store = s.store ++ [(s.next, S)] :=
  storeInsert_above S fun _ hk => List.mem_range.1 ((show s.store.map (·.1) = _ from hq) ▸ hk)

theorem keys_alloc {s : State} (hq : HandlesSequential s) (S : Snapshot) :
    (s.alloc S).store.map (·.1) = s.store.map (·.1) ++ [s.next] := by
  rw [alloc_store_eq hq, List.map_append]
  rfl

theorem handles_alloc {s : State} (hq : HandlesSequential s) (S : Snapshot) :
    HandlesSequential (s.alloc S) := by
  rw [HandlesSequential, keys_alloc hq, show s.store.map (·.1) = _ from hq, State.alloc_next, List.range_succ]

theorem snapshots_setSnapshot {s : State} (hs : ∀ hS ∈ s.store, SnapshotOk s.cfg hS.2) (h : Nat)
    {T : Snapshot} (hT : SnapshotOk s.cfg T) : ∀ hS ∈ (s.setSnapshot h T).store, SnapshotOk s.cfg hS.2 := by
  intro hS hm
  rcases mem_storeInsert hm with rfl | hold
  · exact hT
  · exact hs hS hold

/-- Allocating a snapshot that has no TReadFp of its own. -/
theorem inv_alloc {s : State} (hi : Inv s) {S : Snapshot} (hS : SnapshotOk s.cfg S)
    (hnone : ∀ tid, loaderInvoked tid S = false) : Inv (s.alloc S) := by
  obtain ⟨hcfg, hstore, hreads, hstatus⟩ := (inv_iff s).1 hi
  refine (inv_iff _).2 ⟨hcfg, ⟨handles_alloc hstore.handles S,
    snapshots_setSnapshot hstore.snapshots s.next hS⟩, fun tid => ?_, hstatus⟩
  rw [alloc_store_eq hstore.handles, List.countP_append, List.countP_singleton, hnone tid]
  exact hreads tid

/-- Changing the registers of a snapshot. -/
theorem inv_setRegisters {s : State} (hi : Inv s) {h : Nat} {S : Snapshot} (hS : s.snapshot h = some S)
    {f : RegFile} (hf : RegShape s.cfg f) : Inv (s.setSnapshot h { S with reg := f }) := by
  have hSok := snapshotOk_of_inv hi hS
  obtain ⟨hcfg, hstore, hreads, hstatus⟩ := (inv_iff s).1 hi
  refine (inv_iff _).2 ⟨hcfg, ⟨handles_setSnapshot hstore.handles hS _,
    snapshots_setSnapshot hstore.snapshots h ⟨hf, hSok.fp, hSok.owned⟩⟩, fun tid => ?_, hstatus⟩
  have hcount := countP_storeInsert_known (handles_sorted hstore.handles) (fun hS => loaderInvoked tid hS.2)
    (T := { S with reg := f }) hS
  exact (hreads tid).trans (Nat.add_right_cancel hcount).symm

/-- Invoking a pending loader: the one TReadFp is matched by the one snapshot whose loader has now been
invoked, which is live, because an owned snapshot has no pending loader (42_snapshot R154). -/
theorem inv_fpResolve {s : State} (hi : Inv s) {h : Nat} {S : Snapshot} (hS : s.snapshot h = some S) :
    Inv (s.fpResolve h S) := by
  cases hfp : S.fp with
  | resolved r => rwa [s.fpResolve_of_resolved hfp]
  | pending =>
    have hSok := snapshotOk_of_inv hi hS
    have hlive : S.live = true := by
      by_contra hnot
      exact hSok.owned (Bool.eq_false_iff.2 hnot) hfp
    obtain ⟨hcfg, hstore, hreads, hstatus⟩ := (inv_iff s).1 hi
    rw [s.fpResolve_of_pending hfp]
    refine (inv_iff _).2 ⟨hcfg, ⟨handles_setSnapshot (s := s.afterReadFp S.tid) hstore.handles hS _,
      snapshots_setSnapshot hstore.snapshots h ⟨hSok.shape, fpOutcome_shape _ _, fun _ => nofun⟩⟩,
      fun tid => ?_, hstatus⟩
    have hcount := countP_storeInsert_known (handles_sorted hstore.handles) (fun hS => loaderInvoked tid hS.2)
      (T := { S with fp := .resolved (fpOutcome s.cfg (s.fpAnswer S.tid)) }) hS
    have hold : loaderInvoked tid S = false := by simp [loaderInvoked, hfp]
    have hnew : loaderInvoked tid { S with fp := .resolved (fpOutcome s.cfg (s.fpAnswer S.tid)) } =
        isReadFpOf tid (.readFp S.tid (s.fpAnswer S.tid)) := by
      simp [loaderInvoked, isReadFpOf, hlive]
    rw [hold, hnew] at hcount
    rw [State.setSnapshot_trace, State.afterReadFp_trace, List.countP_append, List.countP_singleton, hreads tid]
    exact hcount.symm

/-- A Resume changes register values, and no other part of a snapshot (60_exceptions R193). -/
theorem resumeSnapshot_eq (draw : Nat) (tid : ThreadId) (h : Nat) (S : Snapshot) :
    resumeSnapshot draw tid h S =
      { S with reg := if S.live ∧ S.tid = tid then drawnRegs draw h S.reg else S.reg } := by
  unfold resumeSnapshot
  split <;> rfl

theorem inv_resumeThread {s : State} (hi : Inv s) (tid : ThreadId) : Inv (s.resumeThread tid) := by
  obtain ⟨hcfg, hstore, hreads, hstatus⟩ := (inv_iff s).1 hi
  refine (inv_iff _).2 ⟨hcfg, ⟨?_, fun hT hm => ?_⟩, fun t => ?_, hstatus⟩
  · rw [HandlesSequential, State.resumeThread_store, List.map_map]
    exact hstore.handles
  · obtain ⟨⟨h, S⟩, hS, rfl⟩ := List.mem_map.1 hm
    obtain ⟨hshape, hfp, howned⟩ := hstore.snapshots _ hS
    rw [resumeSnapshot_eq]
    refine ⟨?_, hfp, howned⟩
    dsimp only
    split
    · exact drawnRegs_shape _ _ hshape
    · exact hshape
  · have hsame (hS : Nat × Snapshot) :
        loaderInvoked t (resumeSnapshot s.draws tid hS.1 hS.2) = loaderInvoked t hS.2 := by
      rw [resumeSnapshot_eq]; rfl
    rw [State.resumeThread_store, List.countP_map]
    exact (hreads t).trans (List.countP_congr fun hS _ => by simp [hsame])

/-! Instructions and steps. -/

/-- What the floating-point load gives for a snapshot of a state that meets the invariant has the
configuration's sizes. -/
theorem fpResult_shape {s : State} {S : Snapshot} (hS : SnapshotOk s.cfg S) :
    FpShape s.cfg (.resolved (s.fpResult S)) := by
  cases hfp : S.fp with
  | pending => exact s.fpResult_of_pending hfp ▸ fpOutcome_shape _ _
  | resolved r => exact s.fpResult_of_resolved hfp ▸ hfp ▸ hS.fp

theorem effect_keeps_inv {s t : State} (hi : Inv s) (he : Effect s t) : Inv t := by
  cases he with
  | responded st p hst => exact inv_respond hi hst p
  | located a p => exact inv_respond (inv_afterResolve hi a) (by decide) p
  | readFailed tid p => exact inv_respond (inv_afterRead hi tid) (by decide) p
  | loaded tid bytes p =>
    have hSok : SnapshotOk s.cfg ⟨tid, gprParse s.cfg bytes, .pending, true⟩ :=
      ⟨gprParse_shape _ _, trivial, nofun⟩
    exact inv_respond (inv_alloc (inv_afterRead hi tid) hSok fun t => by simp [loaderInvoked]) (by decide) p
  | fpResolved h S hS st p hst => exact inv_respond (inv_fpResolve hi hS) hst p
  | copied h S hS p =>
    have hSok := snapshotOk_of_inv hi hS
    refine inv_respond (inv_alloc (inv_fpResolve hi hS) ?_ fun t => ?_) (by decide) p
    · rw [State.fpResolve_cfg]
      exact ⟨hSok.shape, fpResult_shape hSok, fun _ => nofun⟩
    · simp [loaderInvoked]
  | written h S hS which x bytes st p hst =>
    exact inv_respond (inv_setRegisters (inv_afterWrite hi S.tid bytes) hS
      (writeSlot_shape _ x (snapshotOk_of_inv hi hS).shape)) hst p
  | slot o => exact inv_setSlotOut hi o

/-- Settles O57: idling, a Resume and each effect of an instruction keep the invariant. -/
theorem stepKeepsInvariant : Obligations.StepKeepsInvariant := by
  intro s t hi hstep
  obtain ⟨-, rfl⟩ | ⟨tid, rest, -, rfl⟩ | ⟨p, rest, -, he⟩ := step_cases hstep
  · exact hi
  · exact inv_resumeThread (inv_popEvent hi) tid
  · exact effect_keeps_inv (inv_popEvent hi) he

/-- A block just built meets the invariant: its store, its trace and its response stream are empty. -/
theorem inv_resetWith {c : Cfg} (hc : cfgWf c = true) : Inv (State.resetWith c) where
  cfg_wf := hc
  handles := rfl
  registers := nofun
  fp := nofun
  owned := nofun
  fpReads := fun _ => rfl
  statuses := fun _ hr => absurd hr List.not_mem_nil

/-- Settles O58: whatever configuration was offered, the built block's passes its checks. -/
theorem resetMeetsInvariant : Obligations.ResetMeetsInvariant :=
  ⟨inv_resetWith builtCfg_wf, State.resetWith_store _, State.resetWith_next _, State.resetWith_trace _,
    State.resetWith_pending _, State.snapshot_resetWith _⟩

end Sys2Proof.Proofs
end

section
/-! PROOF. The register snapshot (42_snapshot R143, R147 to R152, R155, R156): what GET, COPY and the setters
answer, an equation per outcome, and the unknown handle, which every command that takes one checks first. -/

namespace Sys2Proof.Proofs

open Sys2Proof.Machine Sys2Proof.Laws Sys2Proof.Safety

/-! The unknown handle (R156). -/

/-- What every command with a handle operand comes to when no snapshot has the handle. -/
theorem next_withSnapshot_of_none {s : State} {h : Nat} (hn : s.snapshot h = none) (k : Snapshot → State) :
    (.next (s.withSnapshot h k) : Host.Outcome State Fault Refusal) = .next (s.raise .invalidHandle) :=
  congrArg _ (s.withSnapshot_none k hn)

/-- The same for the two commands whose handle operand is optional (43_classifier R164, R166). -/
theorem next_ifHandleKnown_of_none {s : State} {h : Nat} (hn : s.snapshot h = none) (t : State) :
    (.next (if s.handleKnown (some h) then t else s.raise .invalidHandle) : Host.Outcome State Fault Refusal) =
      .next (s.raise .invalidHandle) :=
  congrArg _ (if_neg (by simp [State.handleKnown, hn]))

/-- Settles O45: every command that takes a handle checks it before anything else. -/
theorem unknownHandleRaisesInvalidHandle : Obligations.UnknownHandleRaisesInvalidHandle := by
  intro h s i hn hi
  have hcheck := next_withSnapshot_of_none hn
  have hoptional := next_ifHandleKnown_of_none hn
  obtain ⟨fp, rfl⟩ | rfl | rfl | rfl | ⟨idx, rfl⟩ | rfl | ⟨v, rfl⟩ | ⟨v, rfl⟩ | ⟨v, rfl⟩ |
    ⟨inst, addr, cur, rfl⟩ | ⟨bytes, addr, cur, rfl⟩ := hi
  exacts [hcheck _, hcheck _, hcheck _, hcheck _, hcheck _, hcheck _, hcheck _, hcheck _, hcheck _,
    hoptional _, hoptional _]

/-! The lazy floating-point load (R143). -/

theorem parseFpReg_lt (c : Cfg) (bytes : List Byte) (k : Nat) : parseFpReg c bytes k < 2 ^ c.fpBits :=
  Nat.mod_lt _ (Nat.two_pow_pos _)

theorem parseFpReg_of_positions {c : Cfg} {regs : List (List Nat)} {k : Nat} {ps : List Nat}
    (hl : c.fpLayout = .positions regs) (hk : regs[k]? = some ps) (bytes : List Byte) :
    parseFpReg c bytes k = natAt bytes ps % 2 ^ c.fpBits := by
  simp [parseFpReg, hl, hk]

theorem fpParse_fregs_getElem? {c : Cfg} {k : Nat} (hk : k < c.numFpr) (bytes : List Byte) :
    (fpParse c bytes).fregs[k]? = some (parseFpReg c bytes k) := by
  simp [fpParse, hk]

/-- Settles O36: a block is loaded exactly when it has the right length, and its registers are parsed one by
one. -/
theorem fpAnswerDecidesFpState : Obligations.FpAnswerDecidesFpState := by
  intro c bytes e
  refine ⟨fun hlen => if_pos hlen, rfl, by simp [fpParse], fun x hx => ?_, fun regs k ps hl hk hps => ?_,
    fun hlen => if_neg hlen, rfl, rfl⟩
  · obtain ⟨k, -, rfl⟩ := List.mem_map.1 hx
    exact parseFpReg_lt c bytes k
  · rw [fpParse_fregs_getElem? hk, parseFpReg_of_positions hl hps]

theorem fpResolve_trace_of_pending {S : Snapshot} (hp : S.fp = .pending) (s : State) (h : Nat) :
    (s.fpResolve h S).trace = s.trace ++ [.readFp S.tid (s.fpAnswer S.tid)] := by
  rw [s.fpResolve_of_pending hp, State.setSnapshot_trace, State.afterReadFp_trace]

theorem fpResolve_trace_of_not_pending {S : Snapshot} (hp : S.fp ≠ .pending) (s : State) (h : Nat) :
    (s.fpResolve h S).trace = s.trace := by
  obtain ⟨hpending, -⟩ | ⟨-, htrace⟩ := fpResolve_trace_cases s h S
  · exact absurd hpending hp
  · exact htrace

/-! GET (R147). -/

/-- Settles O38: GET's two equations, below NUM_GPR and from it on. -/
theorem getReadsGeneralRegister : Obligations.GetReadsGeneralRegister := by
  refine fun h idx s S hS => ⟨fun hlt => ?_, exec_get_of_ge hS⟩
  rw [exec_get_of_lt hlt, slotAnswered_of_some hS]
  rfl

/-! COPY (R148). -/

theorem exec_copy_unknown {h : Nat} {s : State} (hn : s.snapshot h = none) :
    exec (.copy h) s = .next (s.raise .invalidHandle) :=
  next_withSnapshot_of_none hn _

theorem exec_copy_of_failed {h : Nat} {s : State} {S : Snapshot} {c : Cause} (hS : s.snapshot h = some S)
    (hc : s.fpResult S = .failed c) :
    exec (.copy h) s = .next ((s.fpResolve h S).raise .registerTransportError (.cause c)) := by
  refine congrArg Host.Outcome.next ((s.withSnapshot_some _ hS).trans ?_)
  rw [hc]

/-- The owned snapshot a COPY of `S` allocates. -/
def ownedCopy (s : State) (S : Snapshot) : Snapshot := ⟨S.tid, S.reg, .resolved (s.fpResult S), false⟩

theorem exec_copy_of_not_failed {h : Nat} {s : State} {S : Snapshot} (hS : s.snapshot h = some S)
    (hr : ∀ c, s.fpResult S ≠ .failed c) :
    exec (.copy h) s = .next (((s.fpResolve h S).alloc (ownedCopy s S)).ok (.handle s.next)) := by
  refine congrArg Host.Outcome.next ((s.withSnapshot_some _ hS).trans ?_)
  rw [ownedCopy]
  cases hres : s.fpResult S with
  | failed c => exact absurd hres (hr c)
  | loaded | unavailable => rfl

/-- After `fpResolve(h)` and an allocation, the handle that was next names the new snapshot. -/
theorem snapshot_fpResolve_alloc_new (s : State) (h : Nat) (S T : Snapshot) :
    ((s.fpResolve h S).alloc T).snapshot s.next = some T := by
  have hnew := State.snapshot_alloc_new (s.fpResolve h S) T
  rwa [State.fpResolve_next] at hnew

theorem snapshot_fpResolve_alloc_old {s : State} {j : Nat} (hj : j ≠ s.next) (h : Nat) (S T : Snapshot) :
    ((s.fpResolve h S).alloc T).snapshot j = (s.fpResolve h S).snapshot j :=
  State.snapshot_alloc_old _ T (by rwa [State.fpResolve_next])

/-- Settles O40: the next state is `fpResolve(h)`, an allocation and one response. -/
theorem copyAllocatesOwned : Obligations.CopyAllocatesOwned := by
  rintro h s S _ hS hnext rfl hr
  refine ⟨_, exec_copy_of_not_failed hS hr, snapshot_fpResolve_alloc_new s h S _, ?_, fun j hjh hj => ?_, ?_,
    fun hp => fpResolve_trace_of_pending hp s h, fun hp => fpResolve_trace_of_not_pending hp s h, ?_,
    s.fpResolve_cfg h S, s.fpResolve_pending h S, s.fpResolve_resolves h S, s.fpResolve_slotOut h S⟩
  · exact (snapshot_fpResolve_alloc_old hnext h S _).trans (s.snapshot_fpResolve_same hS)
  · exact (snapshot_fpResolve_alloc_old hj h S _).trans (s.snapshot_fpResolve_other S hjh)
  · simp
  · simp

/-- Settles O41: the next state is `fpResolve(h)` and one response. -/
theorem copyFailsOnFailedFp : Obligations.CopyFailsOnFailedFp := by
  intro h s S c hS hc
  refine ⟨_, exec_copy_of_failed hS hc, s.fpResolve_next h S, ?_, fun j hj => s.snapshot_fpResolve_other S hj,
    fun hp => fpResolve_trace_of_pending hp s h, fun hp => fpResolve_trace_of_not_pending hp s h, ?_,
    s.fpResolve_cfg h S, s.fpResolve_pending h S, s.fpResolve_resolves h S, s.fpResolve_slotOut h S⟩
  · exact hc ▸ s.snapshot_fpResolve_same hS
  · simp

/-! What the readers answer (R155). -/

/-- With the floating-point state resolved, AS_REGISTER_LIST makes no call: it only responds. -/
theorem exec_asRegisterList_of_resolved {h : Nat} {s : State} {S : Snapshot} {r : FpResult}
    (hS : s.snapshot h = some S) (hr : S.fp = .resolved r) :
    exec (.asRegisterList true h) s = .next (s.respond (fpListResponse s.cfg S.reg r).status
      (fpListResponse s.cfg S.reg r).payload) := by
  rw [exec_asRegisterList_fp hS, s.fpResolve_of_resolved hr, s.fpResult_of_resolved hr]

/-- A pair of instructions that read alike: the same accessor, or GET at the same index, of two handles. -/
def ReadAlike (h h' : Nat) (p : Instr × Instr) : Prop :=
  p ∈ (accessorsOf h).zip (accessorsOf h') ∨ ∃ idx, p = (.get h idx, .get h' idx)

/-- Two snapshots with the same registers and the same resolved floating-point state are answered alike, by one
response and nothing else. -/
theorem exec_readAlike {t : State} {h h' : Nat} {S T : Snapshot} {r : FpResult} (hS : t.snapshot h = some S)
    (hT : t.snapshot h' = some T) (hreg : T.reg = S.reg) (hfpS : S.fp = .resolved r)
    (hfpT : T.fp = .resolved r) {p : Instr × Instr} (hp : ReadAlike h h' p) :
    ∃ st q, exec p.1 t = .next (t.respond st q) ∧ exec p.2 t = .next (t.respond st q) := by
  have hslot (slot : RegSel) : slotAnswered t h slot = t.ok (.value (readSlot S.reg slot)) ∧
      slotAnswered t h' slot = t.ok (.value (readSlot S.reg slot)) :=
    ⟨slotAnswered_of_some hS slot, hreg ▸ slotAnswered_of_some hT slot⟩
  rcases hp with hp | ⟨idx, rfl⟩
  · simp only [accessorsOf, List.zip_cons_cons, List.zip_nil_right, List.mem_cons, List.not_mem_nil,
      or_false] at hp
    obtain rfl | rfl | rfl | rfl | rfl := hp
    · exact ⟨_, _, congrArg _ (hslot _).1, congrArg _ (hslot _).2⟩
    · exact ⟨_, _, congrArg _ (hslot _).1, congrArg _ (hslot _).2⟩
    · exact ⟨_, _, congrArg _ (hslot _).1, congrArg _ (hslot _).2⟩
    · exact ⟨_, _, exec_asRegisterList_slots hS, hreg ▸ exec_asRegisterList_slots hT⟩
    · exact ⟨_, _, exec_asRegisterList_of_resolved hS hfpS,
        hreg ▸ exec_asRegisterList_of_resolved hT hfpT⟩
  · by_cases hidx : idx.toNat < t.cfg.numGpr
    · exact ⟨_, _, (exec_get_of_lt hidx h).trans (congrArg _ (hslot _).1),
        (exec_get_of_lt hidx h').trans (congrArg _ (hslot _).2)⟩
    · exact ⟨_, _, exec_get_of_ge hS (Nat.not_lt.1 hidx), exec_get_of_ge hT (Nat.not_lt.1 hidx)⟩

/-- A COPY that answers a handle: the handle was next, and it and the source then name snapshots with the same
registers and the same resolved floating-point state. -/
theorem copy_success {h h' : Nat} {s t : State} (hq : HandlesSequential s) (ht : exec (.copy h) s = .next t)
    (hresp : t.responses = s.responses ++ [⟨.ok, .handle h'⟩]) :
    ∃ S T r, t.snapshot h = some S ∧ t.snapshot h' = some T ∧ T.reg = S.reg ∧ S.fp = .resolved r ∧
      T.fp = .resolved r := by
  rcases hS : s.snapshot h with _ | S
  · obtain rfl := Host.Outcome.next.inj ((exec_copy_unknown hS).symm.trans ht)
    simp at hresp
  · have hh : h ≠ s.next := Nat.ne_of_lt ((handles_known_iff hq h).1 (by simp [hS]))
    by_cases hr : ∃ c, s.fpResult S = .failed c
    · obtain ⟨c, hc⟩ := hr
      obtain rfl := Host.Outcome.next.inj ((exec_copy_of_failed hS hc).symm.trans ht)
      simp at hresp
    · obtain rfl := Host.Outcome.next.inj
        ((exec_copy_of_not_failed hS fun c hc => hr ⟨c, hc⟩).symm.trans ht)
      obtain rfl : s.next = h' := by simpa using hresp
      exact ⟨_, _, s.fpResult S,
        (snapshot_fpResolve_alloc_old hh h S _).trans (s.snapshot_fpResolve_same hS),
        snapshot_fpResolve_alloc_new s h S _, rfl, rfl, rfl⟩

/-- Settles O46: both reads are one response from the state the COPY left, and the same response. -/
theorem copyObservesEqual : Obligations.CopyObservesEqual := by
  intro h h' s t hq ht hresp u v p hp hu hv
  obtain ⟨S, T, r, hS, hT, hreg, hfpS, hfpT⟩ := copy_success hq ht hresp
  obtain ⟨st, q, hpu, hpv⟩ := exec_readAlike hS hT hreg hfpS hfpT hp
  obtain rfl := Host.Outcome.next.inj (hpu.symm.trans hu)
  obtain rfl := Host.Outcome.next.inj (hpv.symm.trans hv)
  exact ⟨rfl, rfl, rfl⟩

/-! SET_PC and SET_SP (R149, R150, R152). -/

/-- The setter of a mutable register. -/
def setter : MutableReg → Nat → Word → Instr
  | .pc => .setPc
  | .sp => .setSp

theorem exec_setter_unknown {h : Nat} {s : State} (hn : s.snapshot h = none) (which : MutableReg) (v : Word) :
    exec (setter which h v) s = .next (s.raise .invalidHandle) := by
  cases which <;> exact next_withSnapshot_of_none hn _

theorem exec_setter_of_some {h : Nat} {s : State} {S : Snapshot} (hS : s.snapshot h = some S)
    (which : MutableReg) (v : Word) :
    exec (setter which h v) s = .next (s.writeBack h S which v) := by
  cases which
  · exact exec_setPc_of_some hS v
  · exact exec_setSp_of_some hS v

/-- SET_PC and SET_SP, with their slot and their mutability, are the setters of the two registers. -/
theorem exists_setter {h : Nat} {v : Word} {s : State} {i : Instr} {slot : RegSel}
    (hi : (i = .setPc h v ∧ slot = s.cfg.pcSlot ∧ s.cfg.mutablePc = true) ∨
      (i = .setSp h v ∧ slot = s.cfg.spSlot ∧ s.cfg.mutableSp = true)) :
    ∃ which, i = setter which h v ∧ slot = mutableSlot s.cfg which ∧ isMutable s.cfg which = true := by
  rcases hi with hpc | hsp
  · exact ⟨.pc, hpc⟩
  · exact ⟨.sp, hsp⟩

/-- Settles O42: the next state is the TWrite, the write to the store and one response. -/
theorem settersWriteBackOneSlot : Obligations.SettersWriteBackOneSlot := by
  intro h v s S i slot hS hi ha
  obtain ⟨which, rfl, rfl, hm⟩ := exists_setter hi
  refine ⟨_, (exec_setter_of_some hS which v).trans (congrArg _ (s.writeBack_ok hm ha)),
    State.snapshot_setSnapshot_same _ h _, readSlot_writeSlot_same v, fun q => readSlot_writeSlot_other v,
    fun j hj => State.snapshot_setSnapshot_other _ _ hj, rfl, ?_, rfl, rfl, rfl, rfl, rfl⟩
  rw [State.ok_trace, State.setSnapshot_trace, State.afterWrite_trace, ha]

/-- Settles O43: as after an answered TWrite, but the slot's value is drawn from the old and the new one. -/
theorem failedWriteLeavesOldOrNew : Obligations.FailedWriteLeavesOldOrNew := by
  intro h v s S i slot e hS hi ha
  obtain ⟨which, rfl, rfl, hm⟩ := exists_setter hi
  refine ⟨_, _, (exec_setter_of_some hS which v).trans (congrArg _ (s.writeBack_failed hm ha)),
    s.drawnAfterFailure_cases _ v, State.snapshot_setSnapshot_same _ h _,
    fun j hj => State.snapshot_setSnapshot_other _ _ hj, rfl, ?_, rfl, rfl, rfl, rfl, rfl⟩
  rw [State.raise_trace, State.setSnapshot_trace, State.afterWrite_trace, ha]

end Sys2Proof.Proofs
end

section
/-! PROOF. What each instruction can do to the state, by the instruction, said once (`exec_instrEffect`); and from it
the rules about every instruction: who writes, who allocates, what stays of a snapshot, and the state after an
error (10_state R27, R33, 42_snapshot R153, 60_exceptions R188). -/

namespace Sys2Proof.Proofs

open Sys2Proof.Machine Sys2Proof.Laws Sys2Proof.Safety

/-- A descriptor row, run by itself. -/
def isDescriptor : Instr → Bool
  | .descNone _ _ | .integer _ _ _ | .mappedInteger _ _ _ | .mostSignificantBit _ _ _ | .register _ _ _
  | .optionalRegister _ _ _ | .registerPair _ _ _ | .pcRelative _ _ _ | .checkAgainstPrevious _ _ _ => true
  | _ => false

/-- What instruction `i` can make of a state. `Effect` says the same without the instruction. -/
inductive InstrEffect (s : State) : Instr → State → Prop
  /-- A descriptor's result on the engine's output wire. -/
  | slot {i : Instr} (hi : isDescriptor i = true) (o : SlotOut) : InstrEffect s i (s.setSlotOut o)
  /-- A response, and at most a Resolve call before it. -/
  | answered {i : Instr} (t : Option Word) (st : Status) (p : Payload) :
      InstrEffect s i ((s.afterLocate t).respond st p)
  /-- A TRead that gave no snapshot. -/
  | readFailed (tid : ThreadId) (p : Payload) :
      InstrEffect s (.loadSnapshot tid) ((s.afterRead tid).raise .registerTransportError p)
  /-- A TRead that gave a live snapshot. -/
  | loaded (tid : ThreadId) (bytes : List Byte) :
      InstrEffect s (.loadSnapshot tid)
        (((s.afterRead tid).alloc ⟨tid, gprParse s.cfg bytes, .pending, true⟩).ok (.handle s.next))
  /-- The floating-point state resolved, and listed. -/
  | listed (h : Nat) (S : Snapshot) (hS : s.snapshot h = some S) (p : Payload) :
      InstrEffect s (.asRegisterList true h) ((s.fpResolve h S).ok p)
  /-- The floating-point state resolved, and an owned copy made. -/
  | copied (h : Nat) (S : Snapshot) (hS : s.snapshot h = some S) :
      InstrEffect s (.copy h) (((s.fpResolve h S).alloc (ownedCopy s S)).ok (.handle s.next))
  /-- The floating-point state is, or becomes, failed. -/
  | fpFailed {i : Instr} (h : Nat) (S : Snapshot) (hi : i = .asRegisterList true h ∨ i = .copy h)
      (hS : s.snapshot h = some S) (c : Cause) (hc : s.fpResult S = .failed c) :
      InstrEffect s i ((s.fpResolve h S).raise .registerTransportError (.cause c))
  /-- A TWrite that succeeded. -/
  | written (which : MutableReg) (h : Nat) (v : Word) (S : Snapshot) (hS : s.snapshot h = some S)
      (bytes : List Byte) :
      InstrEffect s (setter which h v) (((s.afterWrite S.tid bytes).setSnapshot h
        { S with reg := writeSlot S.reg (mutableSlot s.cfg which) v }).ok .none)
  /-- A TWrite that failed: the slot holds the old or the new value. -/
  | writeFailed (which : MutableReg) (h : Nat) (v : Word) (S : Snapshot) (hS : s.snapshot h = some S)
      (bytes : List Byte) (x : Word) (hx : x = readSlot S.reg (mutableSlot s.cfg which) ∨ x = v) (p : Payload) :
      InstrEffect s (setter which h v) (((s.afterWrite S.tid bytes).setSnapshot h
        { S with reg := writeSlot S.reg (mutableSlot s.cfg which) x }).raise .registerTransportError p)

/-! The instructions one after another. -/

/-- A response and nothing else. -/
theorem InstrEffect.responded {s : State} {i : Instr} (st : Status) (p : Payload) :
    InstrEffect s i (s.respond st p) :=
  .answered none st p

/-- After the handle check only a known snapshot remains to be looked at. -/
theorem InstrEffect.withSnapshot {s : State} {i : Instr} {h : Nat} {k : Snapshot → State}
    (hk : ∀ S, s.snapshot h = some S → InstrEffect s i (k S)) : InstrEffect s i (s.withSnapshot h k) := by
  cases hS : s.snapshot h with
  | none => exact s.withSnapshot_none k hS ▸ .responded _ _
  | some S => exact s.withSnapshot_some k hS ▸ hk S hS

theorem exec_setter_instrEffect (which : MutableReg) (h : Nat) (v : Word) (s : State) :
    ∃ t, exec (setter which h v) s = .next t ∧ InstrEffect s (setter which h v) t := by
  cases hS : s.snapshot h with
  | none => exact ⟨_, exec_setter_unknown hS which v, .responded _ _⟩
  | some S =>
    refine ⟨_, exec_setter_of_some hS which v, ?_⟩
    cases hm : isMutable s.cfg which with
    | false => exact s.writeBack_unsupported hm ▸ .responded _ _
    | true =>
      cases ha : s.writeAnswer S.tid (gprSerialize s.cfg (writeSlot S.reg (mutableSlot s.cfg which) v)) with
      | ok => exact s.writeBack_ok hm ha ▸ .written which h v S hS _
      | err e =>
        exact s.writeBack_failed hm ha ▸
          .writeFailed which h v S hS _ _ (s.drawnAfterFailure_cases _ v) _

/-- Every instruction answers a next state, and this is everything that state can be. -/
theorem exec_instrEffect (i : Instr) (s : State) : ∃ t, exec i s = .next t ∧ InstrEffect s i t := by
  cases i with
  | decode bytes =>
    refine ⟨_, rfl, ?_⟩
    split <;> exact .responded _ _
  | classify | matchPrologue => exact ⟨_, rfl, .responded _ _⟩
  | resolveTarget inst addr hOpt cur =>
    refine ⟨_, rfl, ?_⟩
    split
    · exact .answered _ _ _
    · exact .responded _ _
  | decodeOne bytes addr hOpt cur =>
    refine ⟨_, rfl, ?_⟩
    split
    · split
      · exact .responded _ _
      · exact .answered _ _ _
    · exact .responded _ _
  | loadSnapshot tid =>
    refine ⟨_, rfl, ?_⟩
    split
    · exact .readFailed tid _
    · split
      · exact .loaded tid _
      · exact .readFailed tid _
  | asRegisterList includeFp h =>
    refine ⟨_, rfl, .withSnapshot fun S hS => ?_⟩
    split
    · rename_i hfp
      subst hfp
      split
      · exact .listed h S hS _
      · exact .listed h S hS _
      · exact .fpFailed h S (.inl rfl) hS _ ‹_›
    · exact .responded _ _
  | programCounter | stackPointer | framePointer | setDx =>
    exact ⟨_, rfl, .withSnapshot fun S _ => .responded _ _⟩
  | get h idx =>
    refine ⟨_, rfl, .withSnapshot fun S _ => ?_⟩
    split <;> exact .responded _ _
  | copy h =>
    cases hS : s.snapshot h with
    | none => exact ⟨_, exec_copy_unknown hS, .responded _ _⟩
    | some S =>
      by_cases hr : ∃ c, s.fpResult S = .failed c
      · obtain ⟨c, hc⟩ := hr
        exact ⟨_, exec_copy_of_failed hS hc, .fpFailed h S (.inr rfl) hS c hc⟩
      · exact ⟨_, exec_copy_of_not_failed hS fun c hc => hr ⟨c, hc⟩, .copied h S hS⟩
  | setPc h v => exact exec_setter_instrEffect .pc h v s
  | setSp h v => exact exec_setter_instrEffect .sp h v s
  | descNone | integer | mappedInteger | mostSignificantBit | register | optionalRegister | registerPair
  | pcRelative | checkAgainstPrevious => exact ⟨_, rfl, .slot rfl _⟩

theorem instrEffect_of_exec {i : Instr} {s t : State} (h : exec i s = .next t) : InstrEffect s i t := by
  obtain ⟨u, hu, he⟩ := exec_instrEffect i s
  obtain rfl := Host.Outcome.next.inj (hu.symm.trans h)
  exact he

/-! Locating a target leaves alone what the rules below speak of. -/

section
variable (s : State) (t : Option Word)

@[simp] theorem afterLocate_cfg : (s.afterLocate t).cfg = s.cfg := by cases t <;> rfl
@[simp] theorem afterLocate_store : (s.afterLocate t).store = s.store := by cases t <;> rfl
@[simp] theorem afterLocate_next : (s.afterLocate t).next = s.next := by cases t <;> rfl
@[simp] theorem afterLocate_trace : (s.afterLocate t).trace = s.trace := by cases t <;> rfl
@[simp] theorem afterLocate_pending : (s.afterLocate t).pending = s.pending := by cases t <;> rfl
@[simp] theorem afterLocate_responses : (s.afterLocate t).responses = s.responses := by cases t <;> rfl
@[simp] theorem snapshot_afterLocate (h : Nat) : (s.afterLocate t).snapshot h = s.snapshot h := by
  cases t <;> rfl

end

/-! Who writes (10_state R33). -/

theorem writesNoState_setter (which : MutableReg) (h : Nat) (v : Word) :
    writesNoState (setter which h v) = false := by
  cases which <;> rfl

theorem writesNoState_of_fp {i : Instr} {h : Nat} (hi : i = .asRegisterList true h ∨ i = .copy h) :
    writesNoState i = false := by
  obtain rfl | rfl := hi <;> rfl

/-- Settles O47: of the effects an instruction can have, one that writes no state has only the descriptor's and
the answer's. -/
theorem readersLeaveStoreAndTrace : Obligations.ReadersLeaveStoreAndTrace := by
  intro i s t hi ht
  cases instrEffect_of_exec ht with
  | slot hdesc o => exact ⟨rfl, rfl, rfl, rfl, rfl⟩
  | answered a st p => simp
  | readFailed | loaded | listed | copied => cases hi
  | fpFailed h S hfp => exact absurd (writesNoState_of_fp hfp) (by simp [hi])
  | written which h v | writeFailed which h v => exact absurd (writesNoState_setter which h v) (by simp [hi])

/-! Who allocates (R27). -/

theorem handles_fpResolve {s : State} (hq : HandlesSequential s) {h : Nat} {S : Snapshot}
    (hS : s.snapshot h = some S) : HandlesSequential (s.fpResolve h S) := by
  rw [HandlesSequential, s.keys_fpResolve (handles_sorted hq) hS, State.fpResolve_next]
  exact hq

/-- Settles O49: a write to the store at a known handle keeps the handles, an allocation adds the one that was
next. -/
theorem onlyLoadAndCopyAllocate : Obligations.OnlyLoadAndCopyAllocate := by
  intro i s t hq ht
  cases instrEffect_of_exec ht with
  | slot | readFailed => exact .inl ⟨rfl, rfl⟩
  | answered => exact .inl (by simp)
  | loaded tid bytes =>
    exact .inr ⟨.inl ⟨tid, rfl⟩, keys_alloc (s := s.afterRead tid) hq _, rfl⟩
  | listed h S hS | fpFailed h S hi hS =>
    exact .inl ⟨s.keys_fpResolve (handles_sorted hq) hS, s.fpResolve_next h S⟩
  | copied h S hS =>
    refine .inr ⟨.inr ⟨h, rfl⟩, (keys_alloc (handles_fpResolve hq hS) _).trans ?_, ?_⟩
    · rw [s.keys_fpResolve (handles_sorted hq) hS, State.fpResolve_next]
    · rw [State.ok_next, State.alloc_next, State.fpResolve_next]
  | written which h v S hS bytes => exact .inl ⟨keys_setSnapshot (s := s.afterWrite _ _) hq hS _, rfl⟩
  | writeFailed which h v S hS bytes x => exact .inl ⟨keys_setSnapshot (s := s.afterWrite _ _) hq hS _, rfl⟩

/-! What stays of a snapshot (42_snapshot R153). -/

/-- `fpResolve(h)` changes at most the floating-point state of the snapshot of `h`, and only from pending. -/
theorem snapshot_fpResolve_cases {s : State} {h j : Nat} {S T : Snapshot} (hS : s.snapshot h = some S)
    (hT : s.snapshot j = some T) : (s.fpResolve h S).snapshot j = some T ∨
      (j = h ∧ ∃ r, T.fp = .pending ∧ (s.fpResolve h S).snapshot j = some { T with fp := .resolved r }) := by
  by_cases hj : j = h
  · subst hj
    obtain rfl : S = T := Option.some.inj (hS.symm.trans hT)
    cases hfp : S.fp with
    | pending => exact .inr ⟨rfl, _, rfl, s.snapshot_fpResolve_same hS⟩
    | resolved r => exact .inl ((congrArg (·.snapshot j) (s.fpResolve_of_resolved hfp)).trans hS)
  · exact .inl ((s.snapshot_fpResolve_other S hj).trans hT)

/-- What is left of snapshot `T` of handle `j` is `U`: all of it, or all but one slot's value after the setter of
that slot, or all but its floating-point state, which was pending, after an instruction that resolves it. -/
def SnapshotKept (c : Cfg) (i : Instr) (j : Nat) (T : Snapshot) (U : Option Snapshot) : Prop :=
  U = some T ∨
    (∃ v x, (i = .setPc j v ∧ U = some { T with reg := writeSlot T.reg c.pcSlot x }) ∨
      (i = .setSp j v ∧ U = some { T with reg := writeSlot T.reg c.spSlot x })) ∨
    ((i = .asRegisterList true j ∨ i = .copy j) ∧
      ∃ r, T.fp = .pending ∧ U = some { T with fp := .resolved r })

theorem snapshotKept_fpResolve {s : State} {i : Instr} {h j : Nat} {S T : Snapshot}
    (hi : i = .asRegisterList true h ∨ i = .copy h) (hS : s.snapshot h = some S) (hT : s.snapshot j = some T) :
    SnapshotKept s.cfg i j T ((s.fpResolve h S).snapshot j) := by
  obtain hsame | ⟨rfl, hres⟩ := snapshot_fpResolve_cases hS hT
  · exact .inl hsame
  · exact .inr (.inr ⟨hi, hres⟩)

theorem snapshotKept_setSlot {s u : State} {h j : Nat} {S T : Snapshot} (hu : u.store = s.store)
    (hS : s.snapshot h = some S) (hT : s.snapshot j = some T) (which : MutableReg) (v x : Word) :
    SnapshotKept s.cfg (setter which h v) j T ((u.setSnapshot h
      { S with reg := writeSlot S.reg (mutableSlot s.cfg which) x }).snapshot j) := by
  by_cases hj : j = h
  · subst hj
    obtain rfl : S = T := Option.some.inj (hS.symm.trans hT)
    have hsame := u.snapshot_setSnapshot_same j { S with reg := writeSlot S.reg (mutableSlot s.cfg which) x }
    cases which
    · exact .inr (.inl ⟨v, x, .inl ⟨rfl, hsame⟩⟩)
    · exact .inr (.inl ⟨v, x, .inr ⟨rfl, hsame⟩⟩)
  · refine .inl ((u.snapshot_setSnapshot_other _ hj).trans ?_)
    rw [State.snapshot, hu]
    exact hT

/-- Settles O48: only the snapshot an instruction's handle names is written, and with sequential handles the one
allocated is no snapshot that exists. -/
theorem snapshotsAreIndependent : Obligations.SnapshotsAreIndependent := by
  intro i s t j T hq hT ht
  have hj : j ≠ s.next := Nat.ne_of_lt ((handles_known_iff hq j).1 (by simp [hT]))
  change SnapshotKept s.cfg i j T (t.snapshot j)
  cases instrEffect_of_exec ht with
  | slot | readFailed => exact .inl hT
  | answered a st p => exact .inl ((snapshot_afterLocate s a j).trans hT)
  | loaded tid bytes => exact .inl ((State.snapshot_alloc_old (s.afterRead tid) _ hj).trans hT)
  | listed h S hS => exact snapshotKept_fpResolve (.inl rfl) hS hT
  | fpFailed h S hi hS => exact snapshotKept_fpResolve hi hS hT
  | copied h S hS =>
    rw [State.snapshot_ok, snapshot_fpResolve_alloc_old hj]
    exact snapshotKept_fpResolve (.inr rfl) hS hT
  | written which h v S hS bytes => exact snapshotKept_setSlot rfl hS hT which v v
  | writeFailed which h v S hS bytes x => exact snapshotKept_setSlot rfl hS hT which v x

/-! The state after an error (60_exceptions R188). -/

/-- The status of the one response `u.respond st p` has beyond those of `s`. -/
theorem status_of_respond {s u : State} {st : Status} {p : Payload} {r : Response}
    (hu : u.responses = s.responses) (hr : (u.respond st p).responses = s.responses ++ [r]) : r.status = st := by
  rw [State.respond_responses, hu, List.append_cancel_left_eq, List.singleton_inj] at hr
  exact hr ▸ rfl

/-- What an error may change of snapshot `j`: a floating-point state that stays failed, and the slot of a failed
setter, which holds the old or the new value. -/
def KeptOnError (s : State) (i : Instr) (j : Nat) (U : Option Snapshot) : Prop :=
  U = s.snapshot j ∨ ∃ S, s.snapshot j = some S ∧
    (((i = .asRegisterList true j ∨ i = .copy j) ∧
        ∃ c, U = some { S with fp := .resolved (.failed c) }) ∨
     (∃ v x, (x = readSlot S.reg s.cfg.pcSlot ∨ x = v) ∧ i = .setPc j v ∧
        U = some { S with reg := writeSlot S.reg s.cfg.pcSlot x }) ∨
     (∃ v x, (x = readSlot S.reg s.cfg.spSlot ∨ x = v) ∧ i = .setSp j v ∧
        U = some { S with reg := writeSlot S.reg s.cfg.spSlot x }))

theorem keptOnError_fpFailed {s : State} {i : Instr} {h : Nat} {S : Snapshot} {c : Cause}
    (hi : i = .asRegisterList true h ∨ i = .copy h) (hS : s.snapshot h = some S)
    (hc : s.fpResult S = .failed c) (j : Nat) : KeptOnError s i j ((s.fpResolve h S).snapshot j) := by
  by_cases hj : j = h
  · subst hj
    exact .inr ⟨S, hS, .inl ⟨hi, c, hc ▸ s.snapshot_fpResolve_same hS⟩⟩
  · exact .inl (s.snapshot_fpResolve_other S hj)

theorem keptOnError_setSlot {s u : State} {h : Nat} {S : Snapshot} (hu : u.store = s.store)
    (hS : s.snapshot h = some S) {which : MutableReg} {v x : Word}
    (hx : x = readSlot S.reg (mutableSlot s.cfg which) ∨ x = v) (j : Nat) :
    KeptOnError s (setter which h v) j ((u.setSnapshot h
      { S with reg := writeSlot S.reg (mutableSlot s.cfg which) x }).snapshot j) := by
  by_cases hj : j = h
  · subst hj
    have hsame := u.snapshot_setSnapshot_same j { S with reg := writeSlot S.reg (mutableSlot s.cfg which) x }
    cases which
    · exact .inr ⟨S, hS, .inr (.inl ⟨v, x, hx, rfl, hsame⟩)⟩
    · exact .inr ⟨S, hS, .inr (.inr ⟨v, x, hx, rfl, hsame⟩)⟩
  · refine .inl ((u.snapshot_setSnapshot_other _ hj).trans ?_)
    rw [State.snapshot, hu, State.snapshot]

/-- `fpResolve(h)` adds at most one entry to the trace. -/
theorem fpResolve_trace_eq_or_append (s : State) (h : Nat) (S : Snapshot) :
    (s.fpResolve h S).trace = s.trace ∨ ∃ call, (s.fpResolve h S).trace = s.trace ++ [call] := by
  obtain ⟨-, -, htrace⟩ | ⟨-, htrace⟩ := fpResolve_trace_cases s h S
  · exact .inr ⟨_, htrace⟩
  · exact .inl htrace

/-- Settles O56: four of the effects respond with an error; the descriptor's responds nothing, the others Ok. -/
theorem errorsLeaveStateBut : Obligations.ErrorsLeaveStateBut := by
  intro i s t r ht hr hst
  change t.next = s.next ∧ (∀ j, KeptOnError s i j (t.snapshot j)) ∧ _
  cases instrEffect_of_exec ht with
  | slot => simp at hr
  | answered a =>
    exact ⟨afterLocate_next s a, fun j => .inl (snapshot_afterLocate s a j), .inl (afterLocate_trace s a)⟩
  | readFailed tid => exact ⟨rfl, fun j => .inl rfl, .inr ⟨rfl, _, rfl⟩⟩
  | loaded | written => exact absurd (status_of_respond rfl hr) hst
  | listed h S | copied h S => exact absurd (status_of_respond (s.fpResolve_responses h S) hr) hst
  | fpFailed h S hi hS c hc =>
    refine ⟨s.fpResolve_next h S, keptOnError_fpFailed hi hS hc, ?_⟩
    exact (fpResolve_trace_eq_or_append s h S).imp_right fun hcall => ⟨writesNoState_of_fp hi, hcall⟩
  | writeFailed which h v S hS bytes x hx =>
    exact ⟨rfl, keptOnError_setSlot rfl hS hx, .inr ⟨writesNoState_setter which h v, _, rfl⟩⟩

end Sys2Proof.Proofs
end

section
/-! PROOF. A step (20_memory R69, 60_exceptions R193, R196): what it does with the oldest event at the port, and what
no step does: leave a request unanswered, free or reuse a handle, or change a resolved floating-point state. -/

namespace Sys2Proof.Proofs

open Sys2Proof.Machine Sys2Proof.Laws Sys2Proof.Safety

/-! The oldest event at the port. -/

theorem popEvent_of_pending {s : State} {e : Event} {rest : List Event} (hp : s.pending = e :: rest) :
    s.popEvent = { s with pending := rest } := by
  rw [State.popEvent, hp, List.tail_cons]

theorem step_idle {s : State} (hp : s.pending = []) : step s = .next s := by
  simp [step, hp]

theorem step_resume {s : State} {tid : ThreadId} {rest : List Event} (hp : s.pending = .resume tid :: rest) :
    step s = .next (s.popEvent.resumeThread tid) := by
  simp [step, hp]

theorem step_of_decode {s : State} {p : Packet} {rest : List Event} {i : Instr}
    (hp : s.pending = .packet p :: rest) (hd : decodePacket p = .ok i) : step s = exec i s.popEvent := by
  simp [step, hp, hd]

theorem step_of_unknownCommand {s : State} {p : Packet} {rest : List Event}
    (hp : s.pending = .packet p :: rest) (hd : decodePacket p = .error .unknownCommand) :
    step s = .next s.popEvent.unknownCommand := by
  simp [step, hp, hd]

theorem step_of_reservedTag {s : State} {p : Packet} {rest : List Event} {tag : BitVec 4}
    (hp : s.pending = .packet p :: rest) (hd : decodePacket p = .error (.reservedTag tag)) :
    step s = .refused (.reservedTag tag) := by
  simp [step, hp, hd]

theorem decodePacket_of_unselected {header : Word32} (h : selectCommand header = none) (o : Operands) :
    decodePacket (.command header o) = .error .unknownCommand := by
  simp [decodePacket, h]

/-- Settles O1: the packet is taken from the port and its instruction run. -/
theorem stepRunsDecodedPacket : Obligations.StepRunsDecodedPacket := by
  intro s p rest i hp hd
  rw [step_of_decode hp hd, popEvent_of_pending hp]

/-- Settles O2: the step's two equations. -/
theorem idleAndUnknownHeaderSteps : Obligations.IdleAndUnknownHeaderSteps := by
  refine ⟨fun s => step_idle, fun s header o rest hp hsel => ?_⟩
  rw [step_of_unknownCommand hp (decodePacket_of_unselected hsel o), popEvent_of_pending hp]
  rfl

/-! Every step answers (60_exceptions R177, R190). -/

/-- The tags 0 to 8 stand for entries (30_encoding R82). -/
theorem exists_decodeEntry {raw : RawDesc} (h : raw.tag.toNat < 9) : ∃ e, decodeEntry raw = some e := by
  unfold decodeEntry
  generalize raw.tag.toNat = n at h
  interval_cases n <;> exact ⟨_, rfl⟩

/-- Settles O55: an instruction has one of its effects, and a packet that is no instruction is either a header that
selects none, which is answered, or a descriptor with a reserved tag. -/
theorem everyStepAnswers : Obligations.EveryStepAnswers := by
  have hexec (i : Instr) (s : State) : ∃ t, exec i s = .next t :=
    (exec_instrEffect i s).imp fun _ h => h.1
  refine ⟨hexec, fun s => ?_⟩
  rcases hp : s.pending with _ | ⟨(⟨header, o⟩ | ⟨raw, w, prev⟩) | tid, rest⟩
  · exact .inl ⟨s, step_idle hp⟩
  · rcases hsel : selectCommand header with _ | c
    · exact .inl ⟨_, step_of_unknownCommand hp (decodePacket_of_unselected hsel o)⟩
    · exact .inl (step_of_decode hp (decodePacket_of_selectCommand hsel o) ▸ hexec _ _)
  · rcases he : decodeEntry raw with _ | e
    · refine .inr ⟨raw, w, prev, rest, rfl, ?_, step_of_reservedTag hp (by simp [decodePacket, he])⟩
      by_contra hlt
      obtain ⟨e, he'⟩ := exists_decodeEntry (Nat.not_le.1 hlt)
      exact nomatch he.symm.trans he'
    · have hd : decodePacket (.descriptor raw w prev) = .ok (entryInstr e w prev) := by simp [decodePacket, he]
      exact .inl (step_of_decode hp hd ▸ hexec _ _)
  · exact .inl ⟨_, step_resume hp⟩

/-! One response a request (30_encoding R89). -/

/-- A request runs no descriptor. -/
theorem isDescriptor_withOperands (c : Command) (fp : Bool) (o : Operands) :
    isDescriptor (c.withOperands fp o) = false := by
  cases c <;> rfl

/-- Every instruction that is no descriptor responds once. -/
theorem exec_responds_once {i : Instr} {s t : State} (hi : isDescriptor i = false) (ht : exec i s = .next t) :
    ∃ r, t.responses = s.responses ++ [r] := by
  cases instrEffect_of_exec ht with
  | slot hdesc => exact absurd hdesc (by simp [hi])
  | answered a => exact ⟨_, congrArg (· ++ _) (afterLocate_responses s a)⟩
  | readFailed | loaded | written | writeFailed => exact ⟨_, rfl⟩
  | listed h S | fpFailed h S | copied h S => exact ⟨_, congrArg (· ++ _) (s.fpResolve_responses h S)⟩

theorem exec_keeps_pending {i : Instr} {s t : State} (ht : exec i s = .next t) : t.pending = s.pending := by
  cases instrEffect_of_exec ht with
  | answered a => exact afterLocate_pending s a
  | slot | readFailed | loaded | written | writeFailed => rfl
  | listed h S | fpFailed h S | copied h S => exact s.fpResolve_pending h S

/-- Settles O54: a header that selects no command is answered UnknownCommand, and any other request runs an
instruction that is no descriptor. -/
theorem oneResponsePerRequest : Obligations.OneResponsePerRequest := by
  intro s t header o rest hp ht
  have hrest : s.popEvent.pending = rest := by rw [State.popEvent_pending, hp, List.tail_cons]
  rcases hsel : selectCommand header with _ | c
  · obtain rfl := Host.Outcome.next.inj
      ((step_of_unknownCommand hp (decodePacket_of_unselected hsel o)).symm.trans ht)
    exact ⟨hrest, _, rfl⟩
  · rw [step_of_decode hp (decodePacket_of_selectCommand hsel o)] at ht
    exact ⟨(exec_keeps_pending ht).trans hrest,
      exec_responds_once (s := s.popEvent) (isDescriptor_withOperands _ _ _) ht⟩

/-! Resume (60_exceptions R193). -/

/-- Settles O52: a Resume writes the store snapshot by snapshot, and of a snapshot only its register values. -/
theorem resumeTouchesLiveSnapshotsOfThread : Obligations.ResumeTouchesLiveSnapshotsOfThread := by
  intro s tid rest hp
  have hrest : s.popEvent.pending = rest := by rw [State.popEvent_pending, hp, List.tail_cons]
  have hlookup (h : Nat) : (s.popEvent.resumeThread tid).snapshot h =
      (s.snapshot h).map (resumeSnapshot s.draws tid h) := State.snapshot_resumeThread _ tid h
  refine ⟨_, step_resume hp, rfl, rfl, rfl, hrest, rfl, rfl, rfl, fun h hn => ?_, fun h S hS hother => ?_,
    fun h S hS => ?_⟩
  · rw [hlookup, hn, Option.map_none]
  · have hkeep : ¬ (S.live = true ∧ S.tid = tid) := fun ⟨hlive, htid⟩ =>
      hother.elim (fun hdead => Bool.noConfusion (hdead.symm.trans hlive)) fun hne => hne htid
    rw [hlookup, hS, Option.map_some, resumeSnapshot, if_neg hkeep]
  · refine ⟨_, by rw [hlookup, hS, Option.map_some, resumeSnapshot_eq], ?_⟩
    split
    · simp [drawnRegs]
    · exact ⟨rfl, rfl⟩

/-! What a step keeps of the handles and of a snapshot. -/

/-- A step on a packet runs an instruction, or answers an unknown header. -/
theorem step_packet_cases {s t : State} {p : Packet} {rest : List Event} (hp : s.pending = .packet p :: rest)
    (ht : step s = .next t) :
    (∃ i, exec i s.popEvent = .next t) ∨ t = s.popEvent.unknownCommand := by
  rcases hd : decodePacket p with (_ | tag) | i
  · exact .inr (Host.Outcome.next.inj ((step_of_unknownCommand hp hd).symm.trans ht)).symm
  · exact nomatch (step_of_reservedTag hp hd).symm.trans ht
  · exact .inl ⟨i, (step_of_decode hp hd).symm.trans ht⟩

/-- No handle is freed, and none below `next` comes into use (10_state R26). -/
structure HandlesKept (s t : State) : Prop where
  next_le : s.next ≤ t.next
  kept : ∀ h, (s.snapshot h).isSome = true → (t.snapshot h).isSome = true
  unused : ∀ h, h < s.next → s.snapshot h = none → t.snapshot h = none

theorem handlesKept_of_same {s t : State} (hnext : t.next = s.next)
    (hsame : ∀ h, (t.snapshot h).isSome = (s.snapshot h).isSome) : HandlesKept s t where
  next_le := hnext.ge
  kept h hs := (hsame h).trans hs
  unused h _ hn := by simpa [hn] using hsame h

/-- A write to the store at a handle that names a snapshot. -/
theorem isSome_setSnapshot {s : State} {h : Nat} {S : Snapshot} (hS : s.snapshot h = some S) (T : Snapshot)
    (j : Nat) : ((s.setSnapshot h T).snapshot j).isSome = (s.snapshot j).isSome := by
  by_cases hj : j = h
  · subst hj
    rw [State.snapshot_setSnapshot_same, hS, Option.isSome_some, Option.isSome_some]
  · rw [s.snapshot_setSnapshot_other T hj]

theorem isSome_fpResolve {s : State} {h : Nat} {S : Snapshot} (hS : s.snapshot h = some S) (j : Nat) :
    ((s.fpResolve h S).snapshot j).isSome = (s.snapshot j).isSome := by
  by_cases hj : j = h
  · subst hj
    rw [s.snapshot_fpResolve_same hS, hS, Option.isSome_some, Option.isSome_some]
  · rw [s.snapshot_fpResolve_other S hj]

/-- An allocation, after operations that keep the handles, and a response. -/
theorem handlesKept_alloc {s u : State} (hnext : u.next = s.next)
    (hsame : ∀ h, (u.snapshot h).isSome = (s.snapshot h).isSome) (S : Snapshot) (p : Payload) :
    HandlesKept s ((u.alloc S).ok p) where
  next_le := by rw [State.ok_next, State.alloc_next, hnext]; exact Nat.le_succ _
  kept h hs := by
    by_cases hh : h = u.next
    · rw [hh, State.snapshot_ok, State.snapshot_alloc_new, Option.isSome_some]
    · rw [State.snapshot_ok, u.snapshot_alloc_old S hh, hsame, hs]
  unused h hlt hn := by
    rw [State.snapshot_ok, u.snapshot_alloc_old S (by omega)]
    simpa [hn] using hsame h

theorem handlesKept_of_exec {i : Instr} {s t : State} (ht : exec i s = .next t) : HandlesKept s t := by
  cases instrEffect_of_exec ht with
  | slot | readFailed => exact handlesKept_of_same rfl fun _ => rfl
  | answered a => exact handlesKept_of_same (afterLocate_next s a) fun h => by simp
  | loaded tid => exact handlesKept_alloc (s := s) (u := s.afterRead tid) rfl (fun _ => rfl) _ _
  | listed h S hS | fpFailed h S _ hS =>
    exact handlesKept_of_same (s.fpResolve_next h S) (isSome_fpResolve hS)
  | copied h S hS => exact handlesKept_alloc (s.fpResolve_next h S) (isSome_fpResolve hS) _ _
  | written which h v S hS bytes =>
    exact handlesKept_of_same rfl (isSome_setSnapshot (s := s.afterWrite S.tid bytes) hS _)
  | writeFailed which h v S hS bytes =>
    exact handlesKept_of_same rfl (isSome_setSnapshot (s := s.afterWrite S.tid bytes) hS _)

/-- Settles O50: taking an event from the port, a Resume and every effect of an instruction keep the handles. -/
theorem handlesNeverFreedOrReused : Obligations.HandlesNeverFreedOrReused := by
  intro s t ht
  have hkept : HandlesKept s t := by
    obtain ⟨-, rfl⟩ | ⟨tid, rest, -, rfl⟩ | ⟨p, rest, hp, -⟩ := step_cases ht
    · exact handlesKept_of_same rfl fun _ => rfl
    · refine handlesKept_of_same rfl fun h => ?_
      rw [State.snapshot_resumeThread, Option.isSome_map, State.snapshot_popEvent]
    · obtain ⟨i, hi⟩ | rfl := step_packet_cases hp ht
      · obtain ⟨hle, hold, hunused⟩ := handlesKept_of_exec hi
        exact ⟨hle, hold, hunused⟩
      · exact handlesKept_of_same rfl fun _ => rfl
  exact ⟨hkept.next_le, hkept.kept, hkept.unused⟩

/-- A snapshot whose floating-point state is resolved keeps it, its thread and its live flag, when an
instruction leaves of the snapshot what the independence law says. -/
theorem resolved_of_snapshotKept {c : Cfg} {i : Instr} {j : Nat} {S : Snapshot} {U : Option Snapshot}
    {r : FpResult} (hk : SnapshotKept c i j S U) (hr : S.fp = .resolved r) :
    ∃ T, U = some T ∧ T.fp = .resolved r ∧ T.tid = S.tid ∧ T.live = S.live := by
  obtain rfl | ⟨v, x, ⟨-, rfl⟩ | ⟨-, rfl⟩⟩ | ⟨-, r', hpending, -⟩ := hk
  · exact ⟨S, rfl, hr, rfl, rfl⟩
  · exact ⟨_, rfl, hr, rfl, rfl⟩
  · exact ⟨_, rfl, hr, rfl, rfl⟩
  · exact nomatch hpending.symm.trans hr

/-- Settles O51: the independence law for an instruction, and a Resume changes register values only. -/
theorem resolvedFpStateIsFinal : Obligations.ResolvedFpStateIsFinal := by
  intro s t h S r hq ht hS hr
  obtain ⟨-, rfl⟩ | ⟨tid, rest, -, rfl⟩ | ⟨p, rest, hp, -⟩ := step_cases ht
  · exact ⟨S, hS, hr, rfl, rfl⟩
  · refine ⟨resumeSnapshot s.draws tid h S, ?_, ?_⟩
    · rw [State.snapshot_resumeThread, State.snapshot_popEvent, hS]
      rfl
    · rw [resumeSnapshot_eq]
      exact ⟨hr, rfl, rfl⟩
  · obtain ⟨i, hi⟩ | rfl := step_packet_cases hp ht
    · exact resolved_of_snapshotKept (snapshotsAreIndependent i s.popEvent t h S hq hS hi) hr
    · exact ⟨S, hS, hr, rfl, rfl⟩

end Sys2Proof.Proofs
end

section
/-! PROOF. The operand descriptor engine (40_operands R112 to R122, 30_encoding R96): what each kind's slot function
gives, and the engine's output wire when a descriptor is run by itself. -/

namespace Sys2Proof.Proofs

open Sys2Proof.Machine

/-! The output wire (R106, R125). -/

theorem exec_descriptor_of_value {d : Desc} {w : Word32} {prev : Option SlotValue} {v : SlotValue}
    (h : decodeSlot d w prev = some v) (s : State) :
    exec (entryInstr (.kind d) w prev) s = .next { s with slotOut := .value v } := by
  rw [exec_descriptor, h]
  rfl

theorem exec_descriptor_of_none {d : Desc} {w : Word32} {prev : Option SlotValue}
    (h : decodeSlot d w prev = none) (s : State) :
    exec (entryInstr (.kind d) w prev) s = .next { s with slotOut := .noValue } := by
  rw [exec_descriptor, h]
  rfl

/-! Integer and PCRelative (R112, R119). -/

/-- Settles O12: their slot functions always give a value. -/
theorem integerAndPcRelativeAlwaysGive : Obligations.IntegerAndPcRelativeAlwaysGive := fun d p _ prev s =>
  ⟨exec_descriptor_of_value (d := .integer d) (prev := prev) rfl s,
    exec_descriptor_of_value (d := .pcRelative p) (prev := prev) rfl s⟩

/-! MostSignificantBit (R115). -/

/-- After an Int the slot function gives the position exactly when the bitfield is not empty, does not start below
bit 0 and stays below bit `maxSize`. -/
theorem decodeSlot_msb_int (d : MsbDesc) (w : Word32) (l : Word) :
    decodeSlot (.mostSignificantBit d) w (some (.int l)) =
      if l.toInt ≤ msbPosition d l.toInt w ∧ 0 ≤ l.toInt ∧ msbPosition d l.toInt w < d.maxSize then
        some (.int (BitVec.ofInt 64 (msbPosition d l.toInt w)))
      else none := by
  have hneg : (msbPosition d l.toInt w - l.toInt + 1 < 1 ∨ l.toInt < 0 ∨ msbPosition d l.toInt w ≥ d.maxSize) ↔
      ¬ (l.toInt ≤ msbPosition d l.toInt w ∧ 0 ≤ l.toInt ∧ msbPosition d l.toInt w < d.maxSize) := by omega
  simp only [decodeSlot, slotMsb, signed, toBits64, hneg, ite_not]

theorem decodeSlot_msb_of_not_int {prev : Option SlotValue} (h : ∀ l, prev ≠ some (.int l)) (d : MsbDesc)
    (w : Word32) : decodeSlot (.mostSignificantBit d) w prev = none := by
  rcases prev with _ | v
  · rfl
  · cases v with
    | int l => exact absurd rfl (h l)
    | empty | reg | optReg | pair | pcRel => rfl

/-- Settles O14: the slot function's two forms. -/
theorem mostSignificantBitGivesPosition : Obligations.MostSignificantBitGivesPosition := by
  refine fun d w s => ⟨?_, fun prev hprev => exec_descriptor_of_none (decodeSlot_msb_of_not_int hprev d w) s⟩
  rintro l _ rfl
  exact ⟨fun hin => exec_descriptor_of_value ((decodeSlot_msb_int d w l).trans (if_pos hin)) s,
    fun hout => exec_descriptor_of_none ((decodeSlot_msb_int d w l).trans (if_neg hout)) s⟩

/-! Register, OptionalRegister and RegisterPair (R116 to R118). -/

theorem regIdOf_of_no_remap {d : RegisterDesc} (h : d.remap = none) (w : Word32) :
    regIdOf d w = some ⟨d.cls, extract w d.lsb d.width⟩ := by
  simp [regIdOf, h]

theorem regIdOf_of_remap {d : RegisterDesc} {m : List (Nat × Nat)} (h : d.remap = some m) (w : Word32) :
    regIdOf d w = (m.lookup (extract w d.lsb d.width)).map (⟨d.cls, ·⟩) := by
  simp [regIdOf, h]

/-- Settles O15: the identifier by the three cases of the remap. -/
theorem registerNamesFieldOrRemap : Obligations.RegisterNamesFieldOrRemap := by
  intro d w prev s
  have hslot : decodeSlot (.register d) w prev = (regIdOf d w).map .reg := rfl
  refine ⟨fun hd => ?_, fun m k hd hk => ?_, fun m hd hn => ?_⟩
  · exact exec_descriptor_of_value (by rw [hslot, regIdOf_of_no_remap hd, Option.map_some]) s
  · exact exec_descriptor_of_value (by rw [hslot, regIdOf_of_remap hd, hk, Option.map_some, Option.map_some]) s
  · exact exec_descriptor_of_none (by rw [hslot, regIdOf_of_remap hd, hn, Option.map_none, Option.map_none]) s

theorem precedingIs_iff (prev : Option SlotValue) (id : RegId) :
    precedingIs prev id = true ↔ prev = some (.reg id) ∨ ∃ b, prev = some (.optReg id b) := by
  simp [precedingIs, or_assoc, or_comm (a := prev = some (.optReg id true))]

/-- Settles O16: the two register kinds share the identifier, and the flag is R117's comparison. -/
theorem optionalRegisterElidable : Obligations.OptionalRegisterElidable := by
  intro d w prev s
  have hslot : decodeSlot (.optionalRegister d) w prev =
      (regIdOf d w).map fun id => .optReg id (precedingIs prev id) := rfl
  refine ⟨fun id hreg => ⟨precedingIs prev id, ?_, precedingIs_iff prev id⟩, fun hnone => ?_⟩
  · obtain ⟨id', hid, heq⟩ := Option.map_eq_some_iff.1 hreg
    obtain rfl : id' = id := SlotValue.reg.inj heq
    exact exec_descriptor_of_value (by rw [hslot, hid, Option.map_some]) s
  · exact exec_descriptor_of_none (by rw [hslot, Option.map_eq_none_iff.1 hnone, Option.map_none]) s

/-- Settles O17: by the two lookups. -/
theorem registerPairLooksUpBothMaps : Obligations.RegisterPairLooksUpBothMaps := by
  intro d w prev s
  refine ⟨fun a b ha hb => ?_, fun hnone => ?_⟩
  · exact exec_descriptor_of_value (d := .registerPair d) (by simp [decodeSlot, slotPair, ha, hb]) s
  · refine exec_descriptor_of_none (d := .registerPair d) ?_ s
    obtain hn | hn := hnone
    · simp [decodeSlot, slotPair, hn]
    · simp [decodeSlot, slotPair, hn]

/-! CheckAgainstPrevious (R122). -/

/-- The gates R122 ANDs, as conditions on the field and the comparand. -/
theorem checkPasses_iff (d : CheckDesc) (v : Nat) (p : Int) :
    checkPasses d v p = true ↔ (d.gt = true → (v : Int) > p) ∧ (d.lt = true → (v : Int) < p) ∧
      (d.eq = true → (v : Int) = p) ∧ (d.zero = true → v = 0) := by
  have hgate (flag : Bool) (q : Prop) [Decidable q] : (!flag || decide q) = true ↔ (flag = true → q) := by
    cases flag <;> simp
  simp only [checkPasses, Bool.and_eq_true, hgate, and_assoc]

/-- The preceding slots that have a number to compare with. -/
theorem comparand_eq_some {prev : Option SlotValue} {p : Int}
    (h : (∃ x : Word, prev = some (.int x) ∧ p = x.toInt) ∨ (∃ id, prev = some (.reg id) ∧ p = id.num) ∨
      (∃ id b, prev = some (.optReg id b) ∧ p = id.num)) : comparand prev = some p := by
  obtain ⟨x, rfl, rfl⟩ | ⟨id, rfl, rfl⟩ | ⟨id, b, rfl, rfl⟩ := h <;> rfl

/-- The others. -/
theorem comparand_eq_none {prev : Option SlotValue} (h : prev = none ∨ prev = some .empty ∨
      (∃ a b, prev = some (.pair a b)) ∨ (∃ off a i f, prev = some (.pcRel off a i f))) :
    comparand prev = none := by
  obtain rfl | rfl | ⟨a, b, rfl⟩ | ⟨off, a, i, f, rfl⟩ := h <;> rfl

/-- Settles O18: the comparand by the form of the preceding slot, then the gates. -/
theorem checkGatesAreAnded : Obligations.CheckGatesAreAnded := by
  intro d w s
  refine ⟨fun prev p hp => ⟨fun hall => ?_, fun hnot => ?_⟩, fun prev hprev => ?_⟩
  · have hpass := (checkPasses_iff d _ p).2 hall
    exact exec_descriptor_of_value (d := .checkAgainstPrevious d)
      (by simp [decodeSlot, slotCheck, comparand_eq_some hp, hpass]) s
  · have hfail := mt (checkPasses_iff d _ p).1 hnot
    exact exec_descriptor_of_none (d := .checkAgainstPrevious d)
      (by simp [decodeSlot, slotCheck, comparand_eq_some hp, hfail]) s
  · exact exec_descriptor_of_none (d := .checkAgainstPrevious d)
      (by simp [decodeSlot, slotCheck, comparand_eq_none hprev]) s

/-! PC-relative targets (R120, R121). -/

/-- The mask `(1 << a) - 1` has the bits below `a`. -/
theorem getLsbD_lowMask {a : Nat} (ha : a ≤ 63) (i : Nat) :
    (((1 : Word) <<< a) - 1).getLsbD i = decide (i < a) := by
  have hpow : 2 ^ a < 2 ^ 64 := Nat.pow_lt_pow_right (by decide) (by omega)
  have hpos := Nat.two_pow_pos a
  have hmask : (((1 : Word) <<< a) - 1).toNat = 2 ^ a - 1 := by
    have hone : ((1 : Word) <<< a).toNat = 2 ^ a := by
      rw [BitVec.toNat_shiftLeft, Nat.shiftLeft_eq]
      exact (congrArg (· % 2 ^ 64) (Nat.one_mul _)).trans (Nat.mod_eq_of_lt hpow)
    rw [BitVec.toNat_sub_of_le (by rw [BitVec.le_def, hone]; exact hpos), hone]
    rfl
  rw [BitVec.getLsbD, hmask, Nat.testBit_two_pow_sub_one]

/-- Clearing the low `a` bits takes off the remainder by 2^a. -/
theorem toNat_and_not_lowMask {a : Nat} (ha : a ≤ 63) (base : Word) :
    (base &&& ~~~(((1 : Word) <<< a) - 1)).toNat = base.toNat - base.toNat % 2 ^ a := by
  have hshift : base &&& ~~~(((1 : Word) <<< a) - 1) = (base >>> a) <<< a := by
    refine BitVec.eq_of_getLsbD_eq fun i hi => ?_
    rw [BitVec.getLsbD_and, BitVec.getLsbD_not, getLsbD_lowMask ha, BitVec.getLsbD_shiftLeft,
      BitVec.getLsbD_ushiftRight]
    by_cases hlow : i < a
    · simp [hlow]
    · rw [Nat.add_sub_cancel' (Nat.not_lt.1 hlow)]
      simp [hlow, hi]
  have hmod := Nat.div_add_mod base.toNat (2 ^ a)
  have hlt := base.isLt
  rw [hshift, BitVec.toNat_shiftLeft, BitVec.toNat_ushiftRight, Nat.shiftLeft_eq, Nat.shiftRight_eq_div_pow,
    Nat.mul_comm, Nat.mod_eq_of_lt (by omega)]
  omega

/-- With `includeIsa` the target is the one without it, with bit 0 put to the base's, flipped if asked. -/
theorem getLsbD_pcrelTarget (base off : Word) (a : Nat) (flip : Bool) {i : Nat} (hi : i < 64) :
    (pcrelTarget base off a true flip).getLsbD i =
      if i = 0 then (base.getLsbD 0 ^^ flip) else (pcrelTarget base off a false flip).getLsbD i := by
  by_cases h0 : i = 0
  · subst h0
    cases flip <;> simp [pcrelTarget]
  · have hone : (1 : Word).getLsbD i = false := by simp [BitVec.getLsbD_one, h0]
    rw [if_neg h0]
    cases flip <;> simp only [pcrelTarget, if_true, if_false, Bool.false_eq_true, BitVec.getLsbD_xor,
      BitVec.getLsbD_or, BitVec.getLsbD_and, BitVec.getLsbD_not, hone, hi] <;> simp

/-- Settles O26: the arithmetic of the address, and bit 0 against the others. -/
theorem pcRelativeTargetArithmetic : Obligations.PcRelativeTargetArithmetic := by
  intro base off a flip ha
  refine ⟨?_, ?_, fun i hi => ?_⟩
  · rw [pcrelTarget, if_neg (by decide), BitVec.toNat_add, toNat_and_not_lowMask ha]
  · rw [getLsbD_pcrelTarget base off a flip (by decide), if_pos rfl]
  · by_cases h64 : i < 64
    · rw [getLsbD_pcrelTarget base off a flip h64, if_neg (by omega)]
    · rw [BitVec.getLsbD_of_ge _ _ (Nat.not_lt.1 h64), BitVec.getLsbD_of_ge _ _ (Nat.not_lt.1 h64)]

/-! The rendered operand list (30_encoding R96). -/

theorem slotShown_eq (v : SlotValue) : slotShown v =
    (v != .empty && (match v with | .optReg _ elidable => !elidable | _ => true)) := by
  cases v <;> rfl

/-- Settles O27: the list is a filter of the slots, by a test that only Empty and an elidable OptReg fail. -/
theorem renderedOperandsLeaveOutElidable : Obligations.RenderedOperandsLeaveOutElidable := by
  refine fun i => ⟨List.filter_congr fun v _ => slotShown_eq v, fun v hempty hopt => List.count_filter ?_,
    fun v hv hmem => ?_⟩
  · cases v with
    | empty => exact absurd rfl hempty
    | optReg id elidable =>
      cases elidable with
      | false => rfl
      | true => exact absurd rfl (hopt id)
    | int | reg | pair | pcRel => rfl
  · have hshown := (List.mem_filter.1 hmem).2
    obtain rfl | ⟨id, rfl⟩ := hv
    · cases hshown
    · cases hshown

end Sys2Proof.Proofs
end

section
/-! PROOF. The decoder (41_decoder R133, R134, 20_memory R54, R56): the number of a word by its bytes, a row tried in
three steps, and the argument list, which is its entries run one by one. -/

namespace Sys2Proof.Proofs

open Sys2Proof.Machine Sys2Proof.Safety

/-! The word of an instruction's bytes (20_memory R54, R56). -/

/-- ORing a byte in above the bits of a word adds it at that place. -/
theorem toNat_or_byte_shiftLeft {x : Word32} {k : Nat} (hx : x.toNat < 2 ^ k) (hk : k ≤ 24) (b : Byte) :
    (x ||| b.setWidth 32 <<< k).toNat = x.toNat + 2 ^ k * b.toNat := by
  have hpow : 2 ^ k ≤ 2 ^ 24 := Nat.pow_le_pow_right (by decide) hk
  have hfit : 2 ^ k * b.toNat < 2 ^ 32 :=
    calc 2 ^ k * b.toNat ≤ 2 ^ 24 * 255 := Nat.mul_le_mul hpow (Nat.le_pred_of_lt b.isLt)
      _ < 2 ^ 32 := by decide
  have hwidth : (b.setWidth 32).toNat = b.toNat := BitVec.toNat_setWidth_of_le (by decide)
  rw [BitVec.toNat_or, BitVec.toNat_shiftLeft, hwidth, Nat.shiftLeft_eq, Nat.mul_comm, Nat.mod_eq_of_lt hfit,
    Nat.or_comm, ← Nat.two_pow_add_eq_or_of_lt hx, Nat.add_comm]

theorem wordOfBytes_little_toNat (b0 b1 b2 b3 : Byte) : (wordOfBytes .little b0 b1 b2 b3).toNat =
    b0.toNat + 2 ^ 8 * b1.toNat + 2 ^ 16 * b2.toNat + 2 ^ 24 * b3.toNat := by
  have h0 : (b0.setWidth 32).toNat = b0.toNat := BitVec.toNat_setWidth_of_le (by decide)
  have hb0 := b0.isLt
  have hb1 := b1.isLt
  have hb2 := b2.isLt
  have h1 := toNat_or_byte_shiftLeft (x := b0.setWidth 32) (k := 8) (by omega) (by decide) b1
  have h2 := toNat_or_byte_shiftLeft (k := 16) (x := b0.setWidth 32 ||| b1.setWidth 32 <<< 8)
    (by omega) (by decide) b2
  have h3 := toNat_or_byte_shiftLeft (k := 24)
    (x := b0.setWidth 32 ||| b1.setWidth 32 <<< 8 ||| b2.setWidth 32 <<< 16) (by omega) (by decide) b3
  rw [wordOfBytes, h3, h2, h1, h0]

/-- The two byte orders read the bytes in opposite order. -/
theorem wordOfBytes_big (b0 b1 b2 b3 : Byte) : wordOfBytes .big b0 b1 b2 b3 = wordOfBytes .little b3 b2 b1 b0 := by
  have hreverse (p q r t : Word32) : p ||| q ||| r ||| t = t ||| r ||| q ||| p := by ac_rfl
  exact hreverse _ _ _ _

theorem assembleWord_append (o : ByteOrder) {bytes : List Byte} (h : 4 ≤ bytes.length) (extra : List Byte) :
    assembleWord o (bytes ++ extra) = assembleWord o bytes := by
  match bytes, h with
  | _ :: _ :: _ :: _ :: _, _ => rfl

/-- Settles O11: little-endian by adding the bytes one above the other, big-endian as the reverse; the decode
function reads the word alone. -/
theorem firstFourBytesFormWord : Obligations.FirstFourBytesFormWord := by
  refine ⟨fun b0 b1 b2 b3 extra => ⟨⟨_, rfl, wordOfBytes_little_toNat b0 b1 b2 b3⟩, ⟨_, rfl, ?_⟩⟩,
    fun c bytes extra hlen => ?_⟩
  · rw [wordOfBytes_big, wordOfBytes_little_toNat]
  · rw [decodeBytes, assembleWord_append c.byteOrder hlen, decodeBytes]

/-! A row (R133). -/

theorem predHolds_iff (row : Row) (w : Word32) :
    predHolds row w = true ↔ ∀ p, row.pred = some p → evalPred w p = true := by
  simp [predHolds, Option.all_eq_true]

/-- Settles O10: the three tests of a row, and its result. -/
theorem rowTriedInThreeSteps : Obligations.RowTriedInThreeSteps := by
  intro row w inst
  rw [tryRow_eq_some_iff, predHolds_iff, maskMatches, beq_iff_eq]
  simp only [eq_comm (b := inst)]

/-! The argument list (R134). -/

theorem decodeEntry_eq_terminator {raw : RawDesc} (h : decodeEntry raw = some .terminator) : raw.tag = 0 := by
  by_contra hne
  have hpos : raw.tag.toNat ≠ 0 := fun h0 => hne (BitVec.eq_of_toNat_eq h0)
  unfold decodeEntry at h
  split at h <;> simp_all

/-- What stands before an entry without a value cannot save the list, unless it ends the list. -/
theorem decodeArgs_eq_none {w : Word32} {d : Desc} (hd : ∀ prev, decodeSlot d w prev = none)
    {front : List RawDesc} (hfront : ∀ raw ∈ front, raw.tag ≠ 0) (back : List RawDesc) (prev : Option SlotValue) :
    decodeArgs w prev (front ++ encodeEntry (.kind d) :: back) = none := by
  induction front generalizing prev with
  | nil => simp [decodeArgs, decodeEntry_encodeEntry, hd]
  | cons raw rest ih =>
    have htag := hfront raw List.mem_cons_self
    have hrest := ih fun r hr => hfront r (List.mem_cons_of_mem _ hr)
    rw [List.cons_append, decodeArgs]
    split
    · rfl
    · exact absurd (decodeEntry_eq_terminator ‹_›) htag
    · split
      · rfl
      · rw [hrest, Option.map_none]

theorem tryRow_eq_none_of_args {row : Row} {w : Word32} (h : decodeArgs w none row.args.toList = none) :
    tryRow row w = none := by
  simp [tryRow, decodeRow, h]

/-- Settles O13: the slot function is the lookup; a row with the descriptor before its terminator has no slots,
and the search goes on. -/
theorem mappedIntegerLooksUp : Obligations.MappedIntegerLooksUp := by
  intro d w prev s
  have hslot (prev : Option SlotValue) : decodeSlot (.mappedInteger d) w prev =
      (d.map.lookup (extract w d.lsb d.width)).map fun y => .int (toBits64 y) := rfl
  refine ⟨rfl, fun y hy => ?_, fun hn => ⟨?_, fun row front back hargs hfront => ?_⟩⟩
  · exact exec_descriptor_of_value ((hslot prev).trans (by rw [hy, Option.map_some]; rfl)) s
  · exact exec_descriptor_of_none ((hslot prev).trans (by rw [hn, Option.map_none])) s
  · have hnone : tryRow row w = none := tryRow_eq_none_of_args (hargs ▸
      decodeArgs_eq_none (fun prev => (hslot prev).trans (by rw [hn, Option.map_none])) hfront back none)
    exact ⟨hnone, fun r rest => searchRows_cons_of_none hnone r rest⟩

/-- Whatever stands after a terminator is not read (30_encoding R80). -/
theorem decodeArgs_terminator (w : Word32) (prev : Option SlotValue) (front back : List RawDesc)
    (f : DescFields) :
    decodeArgs w prev (front ++ ⟨0, f⟩ :: back) = decodeArgs w prev (front ++ [⟨0, f⟩]) := by
  induction front generalizing prev with
  | nil => rfl
  | cons raw rest ih => simp only [List.cons_append, decodeArgs, ih]

/-- Settles O19: the terminator's own effect, and the list it ends. -/
theorem terminatorEndsTheList : Obligations.TerminatorEndsTheList :=
  ⟨fun _ _ _ => rfl, decodeArgs_terminator⟩

/-! The list run entry by entry through `exec` (40_operands R124). -/

theorem runEntries_terminator (w : Word32) (prev : Option SlotValue) (rest : List ArgEntry) (s : State) :
    runEntries w prev (.terminator :: rest) s = some [] := rfl

theorem runEntries_of_value {d : Desc} {w : Word32} {prev : Option SlotValue} {v : SlotValue}
    (h : decodeSlot d w prev = some v) (rest : List ArgEntry) (s : State) :
    runEntries w prev (.kind d :: rest) s =
      (runEntries w (some v) rest { s with slotOut := .value v }).map (v :: ·) := by
  rw [runEntries, exec_descriptor_of_value h]

theorem runEntries_of_none {d : Desc} {w : Word32} {prev : Option SlotValue}
    (h : decodeSlot d w prev = none) (rest : List ArgEntry) (s : State) :
    runEntries w prev (.kind d :: rest) s = none := by
  rw [runEntries, exec_descriptor_of_none h]

/-- Settles O20, by induction on the list: an entry run by itself gives what its slot function gives, and leaves a
state from which the rest of the list runs as from any other. -/
theorem rowDecodingRunsDescriptorsInOrder : Obligations.RowDecodingRunsDescriptorsInOrder := by
  intro w prev raws
  induction raws generalizing prev with
  | nil =>
    rintro _ s ⟨⟩
    rfl
  | cons raw rest ih =>
    intro entries s hentries
    obtain ⟨e, he, es, hes, rfl⟩ : ∃ e, decodeEntry raw = some e ∧ ∃ es, rest.mapM decodeEntry = some es ∧
        e :: es = entries := by
      simpa [List.mapM_cons, Option.bind_eq_some_iff] using hentries
    rcases e with _ | d
    · rw [decodeArgs, he, runEntries_terminator]
    · rw [decodeArgs, he]
      dsimp only
      cases hv : decodeSlot d w prev with
      | none => exact (runEntries_of_none hv es s).symm
      | some v => rw [runEntries_of_value hv, ← ih (some v) es _ hes]

end Sys2Proof.Proofs
end

section
/-! PROOF. The integer arithmetic of the engine (40_operands R108 to R111): the closed form of `intDecode`, the two
bounds, the round trip, and where the round trip fails. -/

namespace Sys2Proof.Proofs

open Sys2Proof.Machine

/-! `intDecode` modulo 2^64 (R108). -/

/-- The mask `-(1 << width)` has the bits from `width` up. -/
theorem getLsbD_highMask (width : Nat) {i : Nat} (hi : i < 64) :
    (-((1 : Word) <<< width)).getLsbD i = decide (width ≤ i) := by
  have hmask : -((1 : Word) <<< width) = BitVec.allOnes 64 <<< width := by
    rw [BitVec.shiftLeft_eq_mul_twoPow, BitVec.shiftLeft_eq_mul_twoPow, ← BitVec.neg_one_eq_allOnes,
      BitVec.neg_mul]
    rfl
  rw [hmask, BitVec.getLsbD_shiftLeft, BitVec.getLsbD_allOnes]
  by_cases hwi : width ≤ i
  · simp [hwi, hi, Nat.not_lt.2 hwi, Nat.lt_of_le_of_lt (Nat.sub_le i width) hi]
  · simp [hwi, Nat.not_le.1 hwi]

theorem getLsbD_of_lt_two_pow {width i : Nat} {x : Word} (hx : x.toNat < 2 ^ width) (hi : width ≤ i) :
    x.getLsbD i = false :=
  Nat.testBit_lt_two_pow (Nat.lt_of_lt_of_le hx (Nat.pow_le_pow_right (by decide) hi))

/-- A number below 2^width has no bit of the high mask. -/
theorem and_highMask_of_lt {width : Nat} {x : Word} (hx : x.toNat < 2 ^ width) :
    x &&& -((1 : Word) <<< width) = 0 := by
  refine BitVec.eq_of_getLsbD_eq fun i hi => ?_
  rw [BitVec.getLsbD_and, getLsbD_highMask width hi]
  by_cases hwi : width ≤ i
  · simp [getLsbD_of_lt_two_pow hx hwi]
  · simp [hwi]

/-- Its complement has every bit of the high mask. -/
theorem not_and_highMask_of_lt {width : Nat} {x : Word} (hx : x.toNat < 2 ^ width) :
    ~~~x &&& -((1 : Word) <<< width) = -((1 : Word) <<< width) := by
  refine BitVec.eq_of_getLsbD_eq fun i hi => ?_
  rw [BitVec.getLsbD_and, BitVec.getLsbD_not, getLsbD_highMask width hi]
  by_cases hwi : width ≤ i
  · rw [getLsbD_of_lt_two_pow hx hwi]
    simp [hi]
  · simp [hwi]

theorem toNat_ofNat_lt {n width : Nat} (h : n < 2 ^ width) : (BitVec.ofNat 64 n).toNat < 2 ^ width := by
  rw [BitVec.toNat_ofNat]
  exact Nat.lt_of_le_of_lt (Nat.mod_le _ _) h

theorem ofInt_sub (a b : Int) : BitVec.ofInt 64 (a - b) = BitVec.ofInt 64 a - BitVec.ofInt 64 b := by
  rw [Int.sub_eq_add_neg, BitVec.ofInt_add, BitVec.ofInt_neg, ← BitVec.sub_eq_add_neg]

theorem twoPow_eq_ofInt (k : Nat) : BitVec.twoPow 64 k = BitVec.ofInt 64 (2 ^ k) := by
  have hcast : (2 : Int) ^ k = ((2 ^ k : Nat) : Int) := by push_cast; rfl
  apply BitVec.eq_of_toNat_eq
  rw [hcast, BitVec.ofInt_natCast, BitVec.toNat_ofNat, BitVec.toNat_twoPow]

/-- The signed integer a field value stands for before bias and shift (R109). -/
def fieldInt (maxVal : Int) (width v : Nat) : Int := if (v : Int) ≤ maxVal then v else v - 2 ^ width

/-- The sign extension of `intDecode`: the high mask is ORed in exactly when the field exceeds `maxVal`. -/
theorem extend_eq_ofInt {maxVal : Int} {width v : Nat} (hv : v < 2 ^ width) (hlow : -1 ≤ maxVal)
    (hhigh : maxVal ≤ 2 ^ width - 1) :
    BitVec.ofNat 64 v ||| ((toBits64 maxVal - BitVec.ofNat 64 v) &&& -((1 : Word) <<< width)) =
      BitVec.ofInt 64 (fieldInt maxVal width v) := by
  have hpow : ((2 ^ width : Nat) : Int) = 2 ^ width := by push_cast; rfl
  have hdiff : toBits64 maxVal - BitVec.ofNat 64 v = BitVec.ofInt 64 (maxVal - v) := by
    rw [ofInt_sub, BitVec.ofInt_natCast, toBits64]
  rw [hdiff, fieldInt]
  by_cases hle : (v : Int) ≤ maxVal
  · obtain ⟨n, hn⟩ := Int.eq_ofNat_of_zero_le (Int.sub_nonneg_of_le hle)
    rw [if_pos hle, hn, BitVec.ofInt_natCast, and_highMask_of_lt (toNat_ofNat_lt (by omega)),
      BitVec.ofInt_natCast]
    exact BitVec.or_zero
  · obtain ⟨n, hn⟩ := Int.eq_ofNat_of_zero_le (a := v - maxVal - 1) (by omega)
    have hnot : BitVec.ofInt 64 (maxVal - v) = ~~~(BitVec.ofNat 64 n) := by
      have hneg : maxVal - v = -(n : Int) - 1 := by omega
      rw [BitVec.not_eq_neg_add, ← BitVec.ofInt_natCast, ← BitVec.ofInt_neg, hneg, ofInt_sub]
      rfl
    have hmask : -((1 : Word) <<< width) = BitVec.ofInt 64 (-(2 ^ width)) := by
      rw [BitVec.ofInt_neg, ← twoPow_eq_ofInt, BitVec.twoPow_eq]
      rfl
    rw [if_neg hle, hnot, not_and_highMask_of_lt (toNat_ofNat_lt (by omega)),
      ← BitVec.add_eq_or_of_and_eq_zero _ _ (and_highMask_of_lt (toNat_ofNat_lt hv)), hmask,
      ← BitVec.ofInt_natCast, ← BitVec.ofInt_add, Int.sub_eq_add_neg]

/-- R109's closed form, modulo 2^64. -/
theorem intDecode_eq_ofInt {maxVal : Int} {width v : Nat} (hv : v < 2 ^ width) (hlow : -1 ≤ maxVal)
    (hhigh : maxVal ≤ 2 ^ width - 1) (bias : Int) (shift : Nat) :
    intDecode maxVal bias shift width v = BitVec.ofInt 64 ((fieldInt maxVal width v + bias) * 2 ^ shift) := by
  rw [intDecode, extend_eq_ofInt hv hlow hhigh, toBits64, ← BitVec.ofInt_add, BitVec.shiftLeft_eq_mul_twoPow,
    twoPow_eq_ofInt, ← BitVec.ofInt_mul]

theorem toInt_intDecode {maxVal bias : Int} {shift width v : Nat} (hv : v < 2 ^ width) (hlow : -1 ≤ maxVal)
    (hhigh : maxVal ≤ 2 ^ width - 1) (hmin : -(2 ^ 63) ≤ (fieldInt maxVal width v + bias) * 2 ^ shift)
    (hmax : (fieldInt maxVal width v + bias) * 2 ^ shift ≤ 2 ^ 63 - 1) :
    (intDecode maxVal bias shift width v).toInt = (fieldInt maxVal width v + bias) * 2 ^ shift := by
  rw [intDecode_eq_ofInt hv hlow hhigh]
  exact BitVec.toInt_ofInt_eq_self (by decide) hmin (Int.lt_of_le_sub_one hmax)

/-- Settles O21: the closed form modulo 2^64, and the integer fits. -/
theorem intDecodeClosedForm : Obligations.IntDecodeClosedForm := by
  rintro maxVal bias shift width v - hv hlow hhigh _ rfl hmin hmax
  exact toInt_intDecode hv hlow hhigh hmin hmax

/-! The values of a descriptor none of which overflows (R110). -/

theorem intRegular_iff (d : IntegerDesc) :
    intRegular d = true ↔ -1 ≤ d.maxVal ∧ d.maxVal ≤ 2 ^ d.width - 1 := by
  simp [intRegular]

theorem fieldInt_bounds {maxVal : Int} {width v : Nat} (hv : v < 2 ^ width) (hlow : -1 ≤ maxVal)
    (hhigh : maxVal ≤ 2 ^ width - 1) :
    maxVal + 1 - 2 ^ width ≤ fieldInt maxVal width v ∧ fieldInt maxVal width v ≤ maxVal := by
  have hpow : ((2 ^ width : Nat) : Int) = 2 ^ width := by push_cast; rfl
  unfold fieldInt
  split <;> omega

/-- Every integer in that range is some field's: the one congruent to it modulo 2^width. -/
theorem fieldInt_emod {maxVal y : Int} {width : Nat} (hlow : -1 ≤ maxVal) (hhigh : maxVal ≤ 2 ^ width - 1)
    (hmin : maxVal + 1 - 2 ^ width ≤ y) (hmax : y ≤ maxVal) :
    (y % 2 ^ width).toNat < 2 ^ width ∧ fieldInt maxVal width (y % 2 ^ width).toNat = y := by
  have hpow : ((2 ^ width : Nat) : Int) = 2 ^ width := by push_cast; rfl
  have hpos : (0 : Int) < 2 ^ width := by positivity
  have hnonneg := Int.emod_nonneg y hpos.ne'
  have hlt := Int.emod_lt_of_pos y hpos
  have hcast : ((y % 2 ^ width).toNat : Int) = y % 2 ^ width := Int.toNat_of_nonneg hnonneg
  refine ⟨by omega, ?_⟩
  rw [fieldInt, hcast]
  by_cases hy : 0 ≤ y
  · rw [Int.emod_eq_of_lt hy (by omega), if_pos hmax]
  · have hmod : y % 2 ^ width = y + 2 ^ width := by
      rw [← Int.add_emod_right, Int.emod_eq_of_lt (by omega) (by omega)]
    rw [hmod, if_neg (by omega)]
    omega

/-- A descriptor as the round trip asks for it: regular, and none of its values overflows. -/
structure NoOverflow (d : IntegerDesc) : Prop where
  low : -1 ≤ d.maxVal
  high : d.maxVal ≤ 2 ^ d.width - 1
  min : -(2 ^ 63) ≤ intClosedMin d
  max : intClosedMax d ≤ 2 ^ 63 - 1

theorem noOverflow_of {d : IntegerDesc} (hreg : intRegular d = true) (hno : intNoOverflow d = true) :
    NoOverflow d := by
  obtain ⟨hlow, hhigh⟩ := (intRegular_iff d).1 hreg
  obtain ⟨hmin, hmax⟩ : -(2 ^ 63) ≤ intClosedMin d ∧ intClosedMax d ≤ 2 ^ 63 - 1 := by
    simpa only [intNoOverflow, Bool.and_eq_true, decide_eq_true_eq] using hno
  exact ⟨hlow, hhigh, hmin, hmax⟩

/-- The value of every field is the closed form, and lies between the two bounds. -/
theorem intValueAt_eq {d : IntegerDesc} (hd : NoOverflow d) {v : Nat} (hv : v < 2 ^ d.width) :
    intValueAt d v = (fieldInt d.maxVal d.width v + d.bias) * 2 ^ d.shift ∧
      intClosedMin d ≤ intValueAt d v ∧ intValueAt d v ≤ intClosedMax d := by
  obtain ⟨hlow, hhigh⟩ := fieldInt_bounds hv hd.low hd.high
  have hpos : (0 : Int) ≤ 2 ^ d.shift := by positivity
  have hmin : intClosedMin d ≤ (fieldInt d.maxVal d.width v + d.bias) * 2 ^ d.shift :=
    Int.mul_le_mul_of_nonneg_right (by omega) hpos
  have hmax : (fieldInt d.maxVal d.width v + d.bias) * 2 ^ d.shift ≤ intClosedMax d :=
    Int.mul_le_mul_of_nonneg_right (by omega) hpos
  have heq : intValueAt d v = (fieldInt d.maxVal d.width v + d.bias) * 2 ^ d.shift :=
    toInt_intDecode hv hd.low hd.high (hd.min.trans hmin) (hmax.trans hd.max)
  exact ⟨heq, heq ▸ hmin, heq ▸ hmax⟩

/-- Every integer between the bounds that bias and shift can give is the value of the field R111 encodes it as. -/
theorem intValueAt_emod {d : IntegerDesc} (hd : NoOverflow d) {y : Int} (hmin : d.maxVal + 1 - 2 ^ d.width ≤ y)
    (hmax : y ≤ d.maxVal) : (y % 2 ^ d.width).toNat < 2 ^ d.width ∧
      intValueAt d (y % 2 ^ d.width).toNat = (y + d.bias) * 2 ^ d.shift := by
  obtain ⟨hlt, hfield⟩ := fieldInt_emod hd.low hd.high hmin hmax
  exact ⟨hlt, by rw [(intValueAt_eq hd hlt).1, hfield]⟩

/-! The bounds (R110). -/

theorem le_foldl_min_iff (f : Nat → Int) (l : List Nat) (a b : Int) :
    b ≤ l.foldl (fun m v => min m (f v)) a ↔ b ≤ a ∧ ∀ v ∈ l, b ≤ f v := by
  induction l generalizing a with
  | nil => simp
  | cons v rest ih => simp [ih, and_assoc]

theorem foldl_max_le_iff (f : Nat → Int) (l : List Nat) (a b : Int) :
    l.foldl (fun m v => max m (f v)) a ≤ b ↔ a ≤ b ∧ ∀ v ∈ l, f v ≤ b := by
  induction l generalizing a with
  | nil => simp
  | cons v rest ih => simp [ih, and_assoc]

theorem le_intLeast_iff (d : IntegerDesc) (b : Int) :
    b ≤ intLeast d ↔ ∀ v, v < 2 ^ d.width → b ≤ intValueAt d v := by
  simp only [intLeast, le_foldl_min_iff, List.mem_range]
  exact ⟨And.right, fun h => ⟨h 0 (Nat.two_pow_pos _), h⟩⟩

theorem intGreatest_le_iff (d : IntegerDesc) (b : Int) :
    intGreatest d ≤ b ↔ ∀ v, v < 2 ^ d.width → intValueAt d v ≤ b := by
  simp only [intGreatest, foldl_max_le_iff, List.mem_range]
  exact ⟨And.right, fun h => ⟨h 0 (Nat.two_pow_pos _), h⟩⟩

theorem intMin_eq_closed {d : IntegerDesc} (hreg : intRegular d = true) (hno : intNoOverflow d = true) :
    intMin d = intClosedMin d := by
  simp [intMin, hreg, hno]

theorem intMax_eq_closed {d : IntegerDesc} (hreg : intRegular d = true) (hno : intNoOverflow d = true) :
    intMax d = intClosedMax d := by
  simp [intMax, hreg, hno]

theorem intClosedMin_eq_least {d : IntegerDesc} (hd : NoOverflow d) : intClosedMin d = intLeast d := by
  have hpos : (0 : Int) < 2 ^ d.width := by positivity
  obtain ⟨hlt, hval⟩ := intValueAt_emod hd (y := d.maxVal + 1 - 2 ^ d.width) le_rfl (by omega)
  refine le_antisymm ((le_intLeast_iff d _).2 fun v hv => (intValueAt_eq hd hv).2.1) ?_
  exact ((le_intLeast_iff d _).1 le_rfl _ hlt).trans hval.le

theorem intClosedMax_eq_greatest {d : IntegerDesc} (hd : NoOverflow d) : intClosedMax d = intGreatest d := by
  have hpos : (0 : Int) < 2 ^ d.width := by positivity
  obtain ⟨hlt, hval⟩ := intValueAt_emod hd (y := d.maxVal) (by omega) le_rfl
  refine le_antisymm ?_ ((intGreatest_le_iff d _).2 fun v hv => (intValueAt_eq hd hv).2.2)
  exact hval.ge.trans ((intGreatest_le_iff d _).1 le_rfl _ hlt)

/-- Settles O22: every value lies between the closed forms, and two fields reach them. -/
theorem integerBoundsAreAttained : Obligations.IntegerBoundsAreAttained := by
  intro d _ hreg hno
  have hd := noOverflow_of hreg hno
  obtain ⟨-, hmin, hmax⟩ := intValueAt_eq hd (Nat.two_pow_pos d.width)
  rw [intMin_eq_closed hreg hno, intMax_eq_closed hreg hno]
  exact ⟨intClosedMin_eq_least hd, intClosedMax_eq_greatest hd, hmin.trans hmax⟩

/-! The round trip (R111). -/

theorem intEncode_eq_some_iff (d : IntegerDesc) (x : Int) (v : Nat) : intEncode d x = some v ↔
    (intMin d ≤ x ∧ x ≤ intMax d ∧ x % 2 ^ d.shift = 0) ∧
      ((x / 2 ^ d.shift - d.bias) % 2 ^ d.width).toNat = v := by
  simp [intEncode]

/-- Settles O23: a multiple of 2^shift between the bounds is `(y + bias) * 2^shift` for an integer `y` that some
field stands for, and that field is its encoding. -/
theorem integerRoundTrip : Obligations.IntegerRoundTrip := by
  intro d x _ hreg hno
  have hd := noOverflow_of hreg hno
  refine ⟨fun v hv => ?_, ?_⟩
  · obtain ⟨⟨hmin, hmax, hmul⟩, rfl⟩ := (intEncode_eq_some_iff d x v).1 hv
    rw [intMin_eq_closed hreg hno] at hmin
    rw [intMax_eq_closed hreg hno] at hmax
    have hpos : (0 : Int) < 2 ^ d.shift := by positivity
    have hx : x = x / 2 ^ d.shift * 2 ^ d.shift := (Int.ediv_mul_cancel (Int.dvd_of_emod_eq_zero hmul)).symm
    have hlow : d.maxVal + 1 - 2 ^ d.width + d.bias ≤ x / 2 ^ d.shift :=
      Int.le_of_mul_le_mul_right (hx ▸ hmin) hpos
    have hhigh : x / 2 ^ d.shift ≤ d.maxVal + d.bias := Int.le_of_mul_le_mul_right (hx ▸ hmax) hpos
    obtain ⟨hlt, hval⟩ := intValueAt_emod hd (y := x / 2 ^ d.shift - d.bias) (by omega) (by omega)
    exact ⟨hlt, by rw [hval, Int.sub_add_cancel, ← hx]⟩
  · simp [intEncode_eq_some_iff]

/-- Refutes O24: with width 1, `maxVal` 1, `bias` 3 and `shift` 61 the value 0 has the encoding 1, which decodes to
`(1 + 3) * 2^61` less 2^64, that is -2^63. -/
theorem not_integerRoundTripDespiteOverflow : ¬ Obligations.IntegerRoundTripDespiteOverflow := by
  intro h
  have hencode : intEncode ⟨0, 1, 1, 3, 61⟩ 0 = some 1 := by decide
  have hdecode : intValueAt ⟨0, 1, 1, 3, 61⟩ 1 = -(2 ^ 63) := by decide
  have hround := h ⟨0, 1, 1, 3, 61⟩ 0 1 (by decide) (by decide) hencode
  exact absurd (hdecode.symm.trans hround) (by decide)

end Sys2Proof.Proofs
end

section
/-! PROOF. The control-flow classifier (43_classifier R161 to R168): the target slot and the target address, and
what each of its commands answers. -/

namespace Sys2Proof.Proofs

open Sys2Proof.Machine

/-! CLASSIFY (R161). -/

theorem exec_classify (inst : Instruction) (s : State) :
    exec (.classify inst) s = .next (s.ok (.kind (kindOf s.cfg inst.opcode))) := rfl

/-- Settles O28: by the two cases of the map. -/
theorem classifyRespondsWithKind : Obligations.ClassifyRespondsWithKind := by
  refine fun inst s => ⟨fun k hk => ?_, fun hn => ?_⟩
  · rw [exec_classify, kindOf, hk, Option.getD_some]
  · rw [exec_classify, kindOf, hn, Option.getD_none]

/-! The target slot (R162). -/

/-- Searching the numbers below `n` from the highest down finds the highest that passes. -/
theorem find?_range_reverse_eq_some_iff (p : Nat → Bool) (n k : Nat) :
    (List.range n).reverse.find? p = some k ↔
      k < n ∧ p k = true ∧ ∀ j, k < j → j < n → p j = false := by
  induction n with
  | zero => simp
  | succ n ih =>
    rw [List.range_succ, List.reverse_append, List.reverse_singleton, List.singleton_append, List.find?_cons]
    cases hn : p n with
    | true =>
      simp only [Option.some.injEq]
      constructor
      · rintro rfl
        exact ⟨Nat.lt_succ_self n, hn, fun j hlt hle => by omega⟩
      · rintro ⟨hk, -, hall⟩
        by_contra hne
        simp [hall n (by omega) (Nat.lt_succ_self n)] at hn
    | false =>
      rw [ih]
      constructor
      · rintro ⟨hk, hpk, hall⟩
        refine ⟨by omega, hpk, fun j hlt hle => ?_⟩
        obtain rfl | hj := Nat.eq_or_lt_of_le (Nat.le_of_lt_succ hle)
        · exact hn
        · exact hall j hlt hj
      · rintro ⟨hk, hpk, hall⟩
        have hne : k ≠ n := fun h => by simp [h, hn] at hpk
        exact ⟨by omega, hpk, fun j hlt hj => hall j hlt (by omega)⟩

theorem args_getD_of_getElem? {inst : Instruction} {k : Nat} {v : SlotValue} (h : inst.args[k]? = some v) :
    inst.args.toList.getD k .empty = v := by
  rw [List.getD_eq_getElem?_getD, Vector.getElem?_toList, h, Option.getD_some]

/-- A slot of the five is Empty in the one spelling exactly when it is in the other. -/
theorem args_getD_eq_empty_iff (inst : Instruction) {k : Nat} (hk : k < 5) :
    inst.args.toList.getD k .empty = .empty ↔ inst.args[k]? = some .empty := by
  rw [args_getD_of_getElem? (Vector.getElem?_eq_getElem hk), Vector.getElem?_eq_getElem hk, Option.some.injEq]

theorem lastSlot_eq_some_iff (inst : Instruction) (k : Nat) : lastSlot inst = some k ↔
    k < 5 ∧ inst.args[k]? ≠ some .empty ∧ ∀ j, k < j → j < 5 → inst.args[j]? = some .empty := by
  refine (find?_range_reverse_eq_some_iff _ 5 k).trans (and_congr_right fun hk => and_congr ?_ ?_)
  · rw [bne_iff_ne, Ne, args_getD_eq_empty_iff inst hk]
  · refine forall_congr' fun j => imp_congr_right fun _ => forall_congr' fun hj => ?_
    rw [bne_eq_false_iff_eq, args_getD_eq_empty_iff inst hj]

theorem lastSlot_eq_none_iff (inst : Instruction) :
    lastSlot inst = none ↔ ∀ j, j < 5 → inst.args[j]? = some .empty := by
  have hall : lastSlot inst = none ↔ ∀ j ∈ (List.range 5).reverse,
      ¬ (inst.args.toList.getD j .empty != .empty) = true := List.find?_eq_none
  rw [hall]
  refine forall_congr' fun j => ?_
  rw [List.mem_reverse, List.mem_range]
  exact forall_congr' fun hj => by rw [bne_iff_ne, Ne, not_not, args_getD_eq_empty_iff inst hj]

/-- Settles O29: without an override the target slot is the search from the highest slot down. -/
theorem targetSlotIsLastNonEmpty : Obligations.TargetSlotIsLastNonEmpty := by
  intro c inst hno
  have hlast : targetSlot c inst = lastSlot inst := by rw [targetSlot, hno]
  rw [hlast]
  exact ⟨lastSlot_eq_some_iff inst, lastSlot_eq_none_iff inst⟩

/-! The target address (R163). -/

theorem registerTarget_of_some {s : State} {h : Nat} {S : Snapshot} (hS : s.snapshot h = some S) (id : RegId)
    (cur : ThreadId) : registerTarget s id (some h) cur =
      if S.tid = cur ∧ id.cls = .gpr ∧ id.num < s.cfg.numGpr then some (readSlot S.reg (.gpr id.num))
      else none := by
  simp [registerTarget, hS]

/-- Settles O30: by the form of the slot's value; a register's by the snapshot its handle names. -/
theorem targetAddressByForm : Obligations.TargetAddressByForm := by
  intro s inst addr hOpt cur k v hk hv
  have hget := args_getD_of_getElem? hv
  refine ⟨?_, ?_, fun id hid => ?_, ?_⟩
  · rintro x rfl
    simp only [targetAddr, hk, hget]
  · rintro off a i f rfl
    simp only [targetAddr, hk, hget]
  · have haddr : targetAddr s inst addr hOpt cur = registerTarget s id hOpt cur := by
      obtain rfl | ⟨b, rfl⟩ := hid
      · simp only [targetAddr, hk, hget]
      · simp only [targetAddr, hk, hget]
    rw [haddr]
    refine ⟨?_, ?_⟩
    · rintro h S rfl hS htid hcls hnum
      rw [registerTarget_of_some hS, if_pos ⟨htid, hcls, hnum⟩]
    · rintro (rfl | ⟨h, S, rfl, hS, hbad⟩)
      · rfl
      · rw [registerTarget_of_some hS, if_neg]
        rintro ⟨htid, hcls, hnum⟩
        exact hbad.elim (· htid) fun hbad => hbad.elim (· hcls) (Nat.not_le.2 hnum)
  · rintro (rfl | ⟨a, b, rfl⟩)
    · simp only [targetAddr, hk, hget]
    · simp only [targetAddr, hk, hget]

/-! RESOLVE_TARGET and DECODE_ONE (R164 to R166). -/

theorem exec_resolveTarget_of_known {s : State} {hOpt : Option Nat} (hk : s.handleKnown hOpt = true)
    {inst : Instruction} {addr : Word} {cur : ThreadId} {t : Option Word}
    (ht : targetToResolve s inst addr hOpt cur = t) : exec (.resolveTarget inst addr hOpt cur) s =
      .next ((s.afterLocate t).ok (.location (s.locationOf t))) := by
  simp [exec, execResolveTarget, hk, ht]

theorem exec_decodeOne_of_ok {s : State} {hOpt : Option Nat} (hk : s.handleKnown hOpt = true)
    {bytes : List Byte} {inst : Instruction} {r : Nat} (hd : decodeBytes s.cfg bytes = .ok (inst, r)) (addr : Word)
    (cur : ThreadId) : exec (.decodeOne bytes addr hOpt cur) s =
      .next ((s.afterLocate (targetToResolve s inst addr hOpt cur)).ok
        (.decodedOne inst r (kindOf s.cfg inst.opcode)
          (s.locationOf (targetToResolve s inst addr hOpt cur)))) := by
  simp [exec, execDecodeOne, hk, hd]

theorem targetToResolve_of_resolves {s : State} {inst : Instruction}
    (h : kindOf s.cfg inst.opcode = .call ∨ kindOf s.cfg inst.opcode = .unconditionalJump) (addr : Word)
    (hOpt : Option Nat) (cur : ThreadId) :
    targetToResolve s inst addr hOpt cur = targetAddr s inst addr hOpt cur := by
  obtain hk | hk := h
  · rw [targetToResolve, hk]; rfl
  · rw [targetToResolve, hk]; rfl

theorem targetToResolve_eq_none {s : State} {inst : Instruction} {addr : Word} {hOpt : Option Nat} {cur : ThreadId}
    (h : kindOf s.cfg inst.opcode = .other ∨ kindOf s.cfg inst.opcode = .ret ∨
      targetAddr s inst addr hOpt cur = none) : targetToResolve s inst addr hOpt cur = none := by
  obtain hk | hk | hn := h
  · rw [targetToResolve, hk]; rfl
  · rw [targetToResolve, hk]; rfl
  · rw [targetToResolve, hn, ite_self]

/-- Settles O31: one Resolve call for an address, whose answer gives the source; none without. -/
theorem resolveTargetLocates : Obligations.ResolveTargetLocates := by
  intro inst addr hOpt cur s hk
  refine ⟨fun a hkind ha => ?_, fun hnone => ?_⟩
  · have ht := (targetToResolve_of_resolves hkind addr hOpt cur).trans ha
    rw [exec_resolveTarget_of_known hk ht]
    refine ⟨fun src hsrc => ?_, fun hsrc => ?_⟩
    · rw [State.locationOf, Option.map_some, hsrc]; rfl
    · rw [State.locationOf, Option.map_some, hsrc]; rfl
  · rw [exec_resolveTarget_of_known hk (targetToResolve_eq_none hnone)]
    rfl

/-- Settles O32: the two commands differ in the payload of their one response. -/
theorem decodeOneDecodesClassifiesResolves : Obligations.DecodeOneDecodesClassifiesResolves := by
  intro bytes addr hOpt cur s inst r hk hd
  refine ⟨_, _, s.locationOf (targetToResolve s inst addr hOpt cur), exec_decodeOne_of_ok hk hd addr cur,
    exec_resolveTarget_of_known hk rfl, ?_, ?_⟩
  · rw [State.ok_responses, afterLocate_responses]
  · rw [State.ok, State.respond, afterLocate_responses]
    rfl

/-! MATCH_PROLOGUE (R167, R168). -/

theorem variantMatches_some_iff (ops t : List Opcode) :
    variantMatches ops (some t) = true ↔ Opcode.ldr :: t <+: ops := by
  simp [variantMatches, tplGetG]

/-- The variants are tried in the order tiny, small, big. -/
theorem matchVariant_eq (c : Cfg) (ops : List Opcode) : matchVariant c ops =
    if variantMatches ops (some tplTiny) then some 0
    else if variantMatches ops (some tplSmall) then some 1
    else if variantMatches ops c.tplBig then some 2 else none := by
  simp only [matchVariant, prologueVariants, List.find?_cons, List.find?_nil]
  cases variantMatches ops (some tplTiny) <;> cases variantMatches ops (some tplSmall) <;>
    cases variantMatches ops c.tplBig <;> rfl

theorem exec_matchPrologue (ops : List Opcode) (s : State) : exec (.matchPrologue ops) s =
    .next (s.ok (.prologue (matchVariant s.cfg ops).isSome (matchVariant s.cfg ops))) := rfl

/-- The variants of R168 with their indices, as the rules list them. -/
theorem mem_variants_iff (big : Option (List Opcode)) (i : Nat) (t : List Opcode) :
    (i, some t) ∈ [(0, some [Opcode.mov, .cmp, .b]), (1, some [.sub, .cmp, .b]), (2, big)] ↔
      (i = 0 ∧ t = tplTiny) ∨ (i = 1 ∧ t = tplSmall) ∨ (i = 2 ∧ some t = big) := by
  simp [tplTiny, tplSmall]

/-- Settles O33: the three variants in their order; the first that matches is the one no earlier one precedes. -/
theorem matchPrologueFirstVariant : Obligations.MatchPrologueFirstVariant := by
  intro ops s
  simp only [mem_variants_iff, exec_matchPrologue, ← variantMatches_some_iff]
  refine ⟨?_, fun hnone => ?_⟩
  · rintro i ⟨⟨t, hmem, hmatch⟩, hfirst⟩
    have hresult : matchVariant s.cfg ops = some i := by
      rw [matchVariant_eq]
      obtain ⟨rfl, rfl⟩ | ⟨rfl, rfl⟩ | ⟨rfl, hbig⟩ := hmem
      · rw [if_pos hmatch]
      · have h0 := hfirst 0 tplTiny (by decide) (.inl ⟨rfl, rfl⟩)
        rw [if_neg h0, if_pos hmatch]
      · have h0 := hfirst 0 tplTiny (by decide) (.inl ⟨rfl, rfl⟩)
        have h1 := hfirst 1 tplSmall (by decide) (.inr (.inl ⟨rfl, rfl⟩))
        rw [if_neg h0, if_neg h1, if_pos (hbig ▸ hmatch)]
    rw [hresult, Option.isSome_some]
  · have hresult : matchVariant s.cfg ops = none := by
      have h0 := hnone 0 tplTiny (.inl ⟨rfl, rfl⟩)
      have h1 := hnone 1 tplSmall (.inr (.inl ⟨rfl, rfl⟩))
      have h2 : ¬ variantMatches ops s.cfg.tplBig = true := by
        cases hbig : s.cfg.tplBig with
        | none => exact Bool.false_ne_true
        | some t => exact hnone 2 t (.inr (.inr ⟨rfl, hbig.symm⟩))
      rw [matchVariant_eq, if_neg h0, if_neg h1, if_neg h2]
    rw [hresult, Option.isSome_none]

end Sys2Proof.Proofs
end

section
/-! PROOF. The layouts of the register block (20_memory R65): every one that passes the build check parses back what
it serialises, a positional one byte by byte, an uninterpreted one as a rearrangement of the plain layout. -/

namespace Sys2Proof.Proofs

open Sys2Proof.Machine Sys2Proof.Laws Sys2Proof.Safety

theorem gprSerialize_length (c : Cfg) (f : RegFile) : (gprSerialize c f).length = c.gprBlockBytes := by
  unfold gprSerialize
  split
  · simp
  · simp [openSerialize]

/-! The uninterpreted layouts. -/

/-- Rearranged back and read plainly, a serialised block gives the register file it was made of. -/
theorem openCandidate_openSerialize {c : Cfg} (hroom : 8 * (c.numGpr + c.numSpecial) ≤ c.gprBlockBytes)
    (π : Equiv.Perm (Fin c.gprBlockBytes → Byte)) {f : RegFile} (hf : RegShape c f) :
    openCandidate c π (openSerialize c π f) = f := by
  have hblock : (fun p : Fin c.gprBlockBytes => (openSerialize c π f).getD p 0) = π fun p => plainByte c f p :=
    blockOf_ofFn c _
  rw [openCandidate, hblock, Equiv.symm_apply_apply]
  exact (regFileOf_congr fun r hr => plainSlot_plainByte hroom f hr).trans (regFileOf_readSlot hf)

theorem openSlot_openSerialize {c : Cfg} (hroom : 8 * (c.numGpr + c.numSpecial) ≤ c.gprBlockBytes)
    (π : Equiv.Perm (Fin c.gprBlockBytes → Byte)) (other : List Byte → RegSel → Word) {f : RegFile}
    (hf : RegShape c f) (r : RegSel) : openSlot c π other (openSerialize c π f) r = readSlot f r := by
  rw [openSlot, openCandidate_openSerialize hroom π hf, if_pos rfl]

/-! The positional layouts. -/

/-- A lookup finds a listed pair when no two pairs have the same key. -/
theorem lookup_of_mem {α β : Type} [DecidableEq α] {l : List (α × β)} {a : α} {b : β}
    (hl : (l.map (·.1)).Nodup) (hm : (a, b) ∈ l) : l.lookup a = some b := by
  induction l with
  | nil => cases hm
  | cons kv rest ih =>
    obtain ⟨k, v⟩ := kv
    rw [List.map_cons, List.nodup_cons] at hl
    obtain heq | hm := List.mem_cons.1 hm
    · cases heq
      simp
    · have hne : a ≠ k := fun h => hl.1 (h ▸ List.mem_map_of_mem (f := (·.1)) hm)
      have hbeq : (a == k) = false := by simpa using hne
      rw [List.lookup_cons, hbeq]
      exact ih hl.2 hm

theorem keys_ownedBytes (c : Cfg) (slots : List (RegSel × List Nat)) :
    (ownedBytes c slots).map (·.1) = (allSlots c).flatMap (slotPositions slots) := by
  simp [ownedBytes, List.map_flatMap, Function.comp_def]

theorem mem_allSlots (c : Cfg) (r : RegSel) : r ∈ allSlots c ↔ hasSlot c r = true := by
  cases r <;> simp [allSlots, hasSlot]

/-- What the build check asks of a positional layout. -/
structure PositionsOk (c : Cfg) (slots : List (RegSel × List Nat)) : Prop where
  eight : ∀ r, hasSlot c r = true → (slotPositions slots r).length = 8
  inside : ∀ r, hasSlot c r = true → ∀ p ∈ slotPositions slots r, p < c.gprBlockBytes
  nodup : ((allSlots c).flatMap (slotPositions slots)).Nodup

/-- Byte `k` of a slot stands at the slot's position number `k`. -/
theorem positionsByte_slot {c : Cfg} {slots : List (RegSel × List Nat)} (hok : PositionsOk c slots) {r : RegSel}
    (hr : hasSlot c r = true) {k p : Nat} (hp : (slotPositions slots r)[k]? = some p) (pad : Byte) (f : RegFile) :
    positionsByte c slots pad f p = byteOfWord (readSlot f r) k := by
  have hmem : (p, r, k) ∈ ownedBytes c slots := by
    refine List.mem_flatMap.2 ⟨r, (mem_allSlots c r).2 hr, List.mem_map.2 ⟨(p, k), ?_, rfl⟩⟩
    exact List.mk_mem_zipIdx_iff_getElem?.2 hp
  rw [positionsByte, lookup_of_mem (by rw [keys_ownedBytes]; exact hok.nodup) hmem]

/-- A slot read from the block a positional layout serialised. -/
theorem positionsSlot_serialized {c : Cfg} {slots : List (RegSel × List Nat)} (hok : PositionsOk c slots)
    (pad : Byte) (f : RegFile) {r : RegSel} (hr : hasSlot c r = true) :
    positionsSlot slots ((List.range c.gprBlockBytes).map fun p => positionsByte c slots pad f p) r =
      readSlot f r := by
  have hbytes : ((slotPositions slots r).map fun p =>
      ((List.range c.gprBlockBytes).map fun p => positionsByte c slots pad f p).getD p 0) =
      (List.range 8).map (byteOfWord (readSlot f r)) := by
    refine List.ext_getElem (by simp [hok.eight r hr]) fun k hk _ => ?_
    rw [List.length_map] at hk
    have hin := hok.inside r hr _ (List.getElem_mem hk)
    simp [hin, positionsByte_slot hok hr (List.getElem?_eq_getElem hk)]
  rw [positionsSlot, natAt, hbytes, natOfBytes_byteOfWord, BitVec.ofNat_toNat, BitVec.setWidth_eq]

theorem layoutOk_uninterpreted {c : Cfg} {n : Nat} (hl : c.gprLayout = .uninterpreted n) :
    layoutOk c = true ↔ 8 * (c.numGpr + c.numSpecial) ≤ c.gprBlockBytes := by
  simp [layoutOk, hl]

theorem layoutOk_positions {c : Cfg} {slots : List (RegSel × List Nat)} {pad : Byte}
    (hl : c.gprLayout = .positions slots pad) : layoutOk c = true ↔ PositionsOk c slots := by
  simp only [layoutOk, hl, Bool.and_eq_true, List.all_eq_true, mem_allSlots, beq_iff_eq, decide_eq_true_eq]
  exact ⟨fun ⟨hall, hnodup⟩ => ⟨fun r hr => (hall r hr).1, fun r hr => (hall r hr).2, hnodup⟩,
    fun ⟨height, hinside, hnodup⟩ => ⟨fun r hr => ⟨height r hr, hinside r hr⟩, hnodup⟩⟩

/-- Settles O59: slot by slot, in each form of a layout. -/
theorem registerBlockParsesBack : Obligations.RegisterBlockParsesBack := by
  refine fun c hc => ⟨fun f hf => ?_, gprSerialize_length c⟩
  refine (regFileOf_congr fun r hr => ?_).trans (regFileOf_readSlot hf)
  cases hl : c.gprLayout with
  | uninterpreted n =>
    simp only [parseSlot, gprSerialize, hl]
    exact openSlot_openSerialize ((layoutOk_uninterpreted hl).1 hc) _ _ hf r
  | positions slots pad =>
    simp only [parseSlot, gprSerialize, hl]
    exact positionsSlot_serialized ((layoutOk_positions hl).1 hc) pad f hr

end Sys2Proof.Proofs
end

section
/-! PROOF. Building the block (70_reset_and_hazards R200): the build checks, each against what its rule says, and
the configurations that pass them all. -/

namespace Sys2Proof.Proofs

open Sys2Proof.Machine Sys2Proof.Safety

theorem firstFailed_eq_none_iff (l : List (BuildCheck × Bool)) :
    firstFailed l = none ↔ ∀ check ∈ l, check.2 = true := by
  induction l with
  | nil => simp [firstFailed]
  | cons check rest ih =>
    obtain ⟨name, ok⟩ := check
    cases ok <;> simp [firstFailed, ih]

/-! One descriptor (30_encoding R83). -/

theorem keysBelow_iff {α : Type} (width : Nat) (m : List (Nat × α)) :
    keysBelow width m = true ↔ ∀ kv ∈ m, kv.1 < 2 ^ width := by
  simp [keysBelow]

/-- At most one of three gates is set. -/
theorem atMostOne_iff (a b c : Bool) : (!(a && b) && !(a && c) && !(b && c)) = true ↔
    ¬ (a = true ∧ b = true) ∧ ¬ (a = true ∧ c = true) ∧ ¬ (b = true ∧ c = true) := by
  revert a b c
  decide

/-- R83's rules with the checks on maps and gates as the build check computes them. -/
theorem descriptorPasses_iff (raw : RawDesc) : DescriptorPasses raw ↔
    raw.tag.toNat ≤ 8 ∧ (raw.tag ≠ 0 → raw.fields.lsb + raw.fields.width ≤ 32) ∧
    (raw.tag = 1 ∨ raw.tag = 3 ∨ raw.tag = 7 ∨ raw.tag = 8 → raw.fields.width ≠ 0) ∧
    (raw.tag = 1 ∨ raw.tag = 7 → raw.fields.shift ≤ 63) ∧ (raw.tag = 7 → raw.fields.alignLog2 ≤ 63) ∧
    (raw.tag = 2 → keysBelow raw.fields.width raw.fields.map = true) ∧
    (raw.tag = 4 ∨ raw.tag = 5 → raw.fields.remap.all (keysBelow raw.fields.width) = true) ∧
    (raw.tag = 6 → keysBelow raw.fields.width raw.fields.map1 = true ∧
      keysBelow raw.fields.width raw.fields.map2 = true) ∧
    (raw.tag = 3 → 1 ≤ raw.fields.maxSize ∧ raw.fields.maxSize ≤ 64) ∧
    (raw.tag = 8 → (!(raw.fields.gt && raw.fields.lt) && !(raw.fields.gt && raw.fields.eq) &&
      !(raw.fields.lt && raw.fields.eq)) = true) := by
  simp only [keysBelow_iff, Option.all_eq_true, ← List.forall_mem_append, atMostOne_iff]
  exact ⟨fun ⟨htag, hfield, hwidth, hshift, halign, hmap, hremap, hmaps, hmsb, hcheck⟩ =>
      ⟨htag, hfield, hwidth, hshift, halign, hmap, hremap, hmaps, hmsb, hcheck⟩,
    fun ⟨htag, hfield, hwidth, hshift, halign, hmap, hremap, hmaps, hmsb, hcheck⟩ =>
      ⟨htag, hfield, hwidth, hshift, halign, hmap, hremap, hmaps, hmsb, hcheck⟩⟩

theorem decodeEntry_of_reserved {raw : RawDesc} (h : 9 ≤ raw.tag.toNat) : decodeEntry raw = none := by
  obtain ⟨m, hm⟩ := Nat.exists_eq_add_of_le' h
  rw [decodeEntry, hm]
  rfl

/-- The checks on a stored descriptor, tag by tag, are those its rule lists for the tag; a reserved tag fails. -/
theorem rawDescFailed_eq_none_iff (raw : RawDesc) : rawDescFailed raw = none ↔ DescriptorPasses raw := by
  by_cases hlt : raw.tag.toNat < 9
  · obtain ⟨tag, f⟩ := raw
    rw [descriptorPasses_iff]
    obtain ⟨n, hn, rfl⟩ : ∃ n < 9, tag = BitVec.ofNat 4 n := ⟨tag.toNat, hlt, by simp⟩
    interval_cases n <;>
      simp [rawDescFailed, decodeEntry, Desc.failed, firstFailed_eq_none_iff, Desc.checks]
  · refine iff_of_false ?_ fun h => hlt (Nat.lt_succ_of_le h.tag)
    simp [rawDescFailed, decodeEntry_of_reserved (Nat.not_lt.1 hlt)]

/-! One row (R79, R80). -/

/-- After a terminator only terminators stand. -/
theorem onlyTerminatorsAfterFirst_iff (l : List RawDesc) :
    onlyTerminatorsAfterFirst l = true ↔ l.Pairwise fun x y => x.tag = 0 → y.tag = 0 := by
  induction l with
  | nil => simp [onlyTerminatorsAfterFirst]
  | cons raw rest ih =>
    rw [List.pairwise_cons, ← ih]
    unfold onlyTerminatorsAfterFirst
    by_cases htag : raw.tag = 0#4
    · have hzero : (rest.all (·.tag == 0)) = true →
          ((rest.dropWhile (·.tag != 0)).all (·.tag == 0)) = true := fun h =>
        List.all_eq_true.2 fun x hx => List.all_eq_true.1 h x ((List.dropWhile_sublist _).mem hx)
      simpa [htag] using hzero
    · simp [htag]

theorem args_pairwise_iff (row : Row) (R : RawDesc → RawDesc → Prop) : row.args.toList.Pairwise R ↔
    ∀ (j k : Nat) (x y : RawDesc), row.args[j]? = some x → row.args[k]? = some y → j < k → R x y := by
  simp only [← Vector.getElem?_toList, List.pairwise_iff_getElem, List.getElem?_eq_some_iff]
  constructor
  · rintro h j k x y ⟨hj, rfl⟩ ⟨hk, rfl⟩ hlt
    exact h j k hj hk hlt
  · intro h j k hj hk hlt
    exact h j k _ _ ⟨hj, rfl⟩ ⟨hk, rfl⟩ hlt

theorem rowFailed_eq_none_iff (row : Row) : rowFailed row = none ↔ RowPasses row := by
  have hdesc : row.args.toList.findSome? rawDescFailed = none ↔
      ∀ raw ∈ row.args.toList, DescriptorPasses raw := by
    simp only [List.findSome?_eq_none_iff, rawDescFailed_eq_none_iff]
  have hrow : rowFailed row = none ↔ row.value &&& ~~~row.mask = 0 ∧
      row.args.toList.findSome? rawDescFailed = none ∧ onlyTerminatorsAfterFirst row.args.toList = true := by
    unfold rowFailed
    by_cases hvalue : row.value &&& ~~~row.mask = 0#32
    · cases hfind : row.args.toList.findSome? rawDescFailed <;> simp [hvalue]
    · simp [hvalue]
  rw [hrow, hdesc, onlyTerminatorsAfterFirst_iff, args_pairwise_iff]
  exact ⟨fun ⟨hvalue, hall, hlast⟩ => ⟨hvalue, hall, fun j k x y hx hy hlt => hlast j k x y hx hy hlt⟩,
    fun ⟨hvalue, hall, hlast⟩ => ⟨hvalue, hall, fun j k x y hx hy hlt => hlast j k x y hx hy hlt⟩⟩

/-! The parameters (R200). -/

theorem allSlots_nodup (c : Cfg) : (allSlots c).Nodup := by
  refine List.Nodup.append (List.nodup_range.map fun _ _ h => RegSel.gpr.inj h)
    (List.nodup_range.map fun _ _ h => RegSel.special.inj h) fun r hg hs => ?_
  obtain ⟨i, -, rfl⟩ := List.mem_map.1 hg
  obtain ⟨j, -, hj⟩ := List.mem_map.1 hs
  cases hj

/-- A permutation of the slots lists each slot once, and nothing else. -/
theorem listOrder_iff (c : Cfg) : c.listOrder.isPerm (allSlots c) = true ↔
    ∀ r, c.listOrder.count r = if hasSlot c r then 1 else 0 := by
  rw [List.isPerm_iff, List.perm_iff_count]
  refine forall_congr' fun r => ?_
  rw [(allSlots_nodup c).count]
  simp only [mem_allSlots]

theorem positionsOk_iff (c : Cfg) (slots : List (RegSel × List Nat)) : PositionsOk c slots ↔
    (∀ r, hasSlot c r = true → (slotPositions slots r).length = 8 ∧
        ∀ p ∈ slotPositions slots r, p < c.gprBlockBytes) ∧
      (∀ r, hasSlot c r = true → (slotPositions slots r).Nodup) ∧
      ∀ q r, hasSlot c q = true → hasSlot c r = true → q ≠ r →
        ∀ p ∈ slotPositions slots q, p ∉ slotPositions slots r := by
  have hnodup : ((allSlots c).flatMap (slotPositions slots)).Nodup ↔
      (∀ r, hasSlot c r = true → (slotPositions slots r).Nodup) ∧
      ∀ q r, hasSlot c q = true → hasSlot c r = true → q ≠ r →
        ∀ p ∈ slotPositions slots q, p ∉ slotPositions slots r := by
    rw [List.nodup_flatMap]
    simp only [mem_allSlots]
    refine and_congr_right fun _ => ⟨fun hpair q r hq hr hne p hp hp' => ?_, fun hdisj => ?_⟩
    · have hsymm : Std.Symm (Function.onFun List.Disjoint (slotPositions slots)) :=
        ⟨fun _ _ h => List.Disjoint.symm h⟩
      exact hpair.forall ((mem_allSlots c q).2 hq) ((mem_allSlots c r).2 hr) hne hp hp'
    · refine (allSlots_nodup c).pairwise_of_forall_ne fun q hq r hr hne p hp => ?_
      exact hdisj q r ((mem_allSlots c q).1 hq) ((mem_allSlots c r).1 hr) hne p hp
  rw [← hnodup]
  exact ⟨fun ⟨h8, hin, hnd⟩ => ⟨fun r hr => ⟨h8 r hr, hin r hr⟩, hnd⟩,
    fun ⟨hall, hnd⟩ => ⟨fun r hr => (hall r hr).1, fun r hr => (hall r hr).2, hnd⟩⟩

theorem layoutOk_iff (c : Cfg) : layoutOk c = true ↔ LayoutPasses c := by
  unfold LayoutPasses
  split
  · exact layoutOk_uninterpreted ‹_›
  · exact (layoutOk_positions ‹_›).trans (positionsOk_iff c _)

theorem cfgFailed_eq_none_iff (c : Cfg) : cfgFailed c = none ↔ ConfigurationPasses c := by
  have hrows : c.table.findSome? rowFailed = none ↔ ∀ row ∈ c.table, RowPasses row := by
    simp only [List.findSome?_eq_none_iff, rowFailed_eq_none_iff]
  have hparameters : firstFailed (parameterChecks c) = none ↔ 1 ≤ c.numSpecial ∧
      (hasSlot c c.pcSlot = true ∧ hasSlot c c.spSlot = true ∧ hasSlot c c.fpSlot = true) ∧
      (c.pcSlot ≠ c.spSlot ∧ c.pcSlot ≠ c.fpSlot ∧ c.spSlot ≠ c.fpSlot) ∧
      (∀ r, c.listOrder.count r = if hasSlot c r then 1 else 0) ∧ c.tplBig ≠ some [] ∧ LayoutPasses c := by
    rw [firstFailed_eq_none_iff, ← listOrder_iff, ← layoutOk_iff]
    simp [parameterChecks, and_assoc]
  have hcfg : cfgFailed c = none ↔
      c.table.findSome? rowFailed = none ∧ firstFailed (parameterChecks c) = none := by
    unfold cfgFailed
    cases c.table.findSome? rowFailed <;> simp
  rw [hcfg, hrows, hparameters]
  exact ⟨fun ⟨hr, hs, hf, hd, hl, ht, hly⟩ => ⟨hr, hs, hf, hd, hl, ht, hly⟩,
    fun ⟨hr, hs, hf, hd, hl, ht, hly⟩ => ⟨hr, hs, hf, hd, hl, ht, hly⟩⟩

/-- Settles O60: a configuration fails no check exactly when it is as the rules word it. -/
theorem illFormedConfigurationsRefused : Obligations.IllFormedConfigurationsRefused := by
  refine fun c => ⟨fun hc => ?_, fun hc => ?_, rfl, rfl, rfl, rfl, rfl⟩
  · rw [boot, (cfgFailed_eq_none_iff c).2 hc]
  · obtain ⟨failure, hfail⟩ := Option.ne_none_iff_exists'.1 (mt (cfgFailed_eq_none_iff c).1 hc)
    exact ⟨failure, by rw [boot, hfail]⟩

end Sys2Proof.Proofs
end
